-- ==== Sys2Proof/Word.lean ====
section
/-! DEFINITION. The plain words and names of the block: bytes, logic levels, command words, pins, engines, digit positions
(00_scope.md R11, 10_state.md R20, R21, R26). -/

namespace Sys2Proof

/-- An unsigned byte. -/
abbrev Byte := BitVec 8

/-- A command word, `op[39:32]` and `arg[31:0]` (30_encoding.md R90). -/
abbrev CmdWord := BitVec 40

/-- A logic level: `false` is 0 (low), `true` is 1 (high) (00_scope.md R11). -/
abbrev Level := Bool

/-- The direction of a pin (10_state.md R21). -/
inductive Dir where
  | input
  | output
deriving DecidableEq, Repr, Inhabited

/-- The named pins (10_state.md R31, R38, R43). -/
inductive Pin where
  | data
  | clk
  | latch
  | selUnits
  | selTens
  | sw
  | trig
  | echo
deriving DecidableEq, Repr, Inhabited

/-- The four engine instances (10_state.md R20). -/
inductive Engine where
  | disp
  | sw
  | echo
  | pwm
deriving DecidableEq, Repr, Inhabited

/-- Which digit a half-cycle of the refresh loop shows, `disp.half` (10_state.md R26). -/
inductive Half where
  | units
  | tens
deriving DecidableEq, Repr, Inhabited

end Sys2Proof
end

