-- ==== Sys2Proof/Syntax.lean ====
section
/-! DEFINITION. The six operations of the block, one constructor per row of the opcode table (30_encoding.md R90 to R96). -/

namespace Sys2Proof

/-- The operations. `t`, `u` are unsigned bytes stored unchecked (R91, R97); `p` is the mathematical integer the
32-bit operand stands for (R96, R97). -/
inductive Instr where
  | dispSetDigits (t u : Byte)
  | dispStart
  | dispStop
  | swMeasure
  | echoMeasure
  | pwmSetDuty (p : Int)
deriving DecidableEq, Repr

end Sys2Proof
end

