-- ==== Sys2Proof/WellFormed.lean ====
section
/-! DEFINITION. Which instructions a command word can spell (30_encoding.md R96, R97). -/

namespace Sys2Proof

/-- The operand of `PWM_SET_DUTY` "ranges over -2147483648 to 2147483647" (R96); every other operand is a byte and any
byte will do (R97). -/
def Instr.wf : Instr → Bool
  | .dispSetDigits _ _ => true
  | .dispStart => true
  | .dispStop => true
  | .swMeasure => true
  | .echoMeasure => true
  | .pwmSetDuty p => decide (-2147483648 ≤ p ∧ p ≤ 2147483647)

end Sys2Proof
end

