-- ==== Sys2Proof/Decode.lean ====
section
/-! DEFINITION. The decoder of command words, total and rejecting by name, and the encoder (30_encoding.md R90 to R98). -/

namespace Sys2Proof

/-- Why a word spells no operation (30_encoding.md R98). -/
inductive DecodeError where
  /-- `op` is none of 0x10, 0x11, 0x12, 0x20, 0x30, 0x40. -/
  | unknownOp
  /-- a field of `arg` that the format fixes at zero is not zero. -/
  | nonzeroField
  /-- the bits given are more than the 40 of a command word (R100). -/
  | tooLong
deriving DecidableEq, Repr

/-- `op[39:32]` (R90). -/
def opField (w : CmdWord) : Byte := w.extractLsb' 32 8

/-- `arg[31:0]` (R90). -/
def argField (w : CmdWord) : BitVec 32 := w.extractLsb' 0 32

/-- `arg[31:16]`, zero in `DISP_SET_DIGITS` (R91). -/
def zeroField (w : CmdWord) : BitVec 16 := w.extractLsb' 16 16

/-- `arg[15:8]`, the tens digit (R91). -/
def tensField (w : CmdWord) : Byte := w.extractLsb' 8 8

/-- `arg[7:0]`, the units digit (R91). -/
def unitsField (w : CmdWord) : Byte := w.extractLsb' 0 8

/-- A form without operands: `arg = 0` or the word is invalid (R92 to R95, R98). -/
def decodeBare (i : Instr) (w : CmdWord) : Except DecodeError Instr :=
  if argField w = 0 then .ok i else .error .nonzeroField

/-- The decoder (R91 to R98). A word outside the six forms is rejected by name. -/
def decode (w : CmdWord) : Except DecodeError Instr :=
  if opField w = 0x10 then
    if zeroField w = 0 then .ok (.dispSetDigits (tensField w) (unitsField w)) else .error .nonzeroField
  else if opField w = 0x11 then decodeBare .dispStart w
  else if opField w = 0x12 then decodeBare .dispStop w
  else if opField w = 0x20 then decodeBare .swMeasure w
  else if opField w = 0x30 then decodeBare .echoMeasure w
  else if opField w = 0x40 then .ok (.pwmSetDuty (argField w).toInt)
  else .error .unknownOp

/-- The decoder on a number of any size: more than 40 bits is no command word (R100). -/
def decodeNat (n : Nat) : Except DecodeError Instr :=
  if n < 2 ^ 40 then decode (BitVec.ofNat 40 n) else .error .tooLong

/-- Build a word from its two fields (R90). -/
def mkWord (op : Byte) (arg : BitVec 32) : CmdWord := op ++ arg

/-- The encoder, from the same forms (R91 to R96). -/
def encode : Instr → CmdWord
  | .dispSetDigits t u => mkWord 0x10 ((0 : BitVec 16) ++ (t ++ u))
  | .dispStart => mkWord 0x11 0
  | .dispStop => mkWord 0x12 0
  | .swMeasure => mkWord 0x20 0
  | .echoMeasure => mkWord 0x30 0
  | .pwmSetDuty p => mkWord 0x40 (BitVec.ofInt 32 p)

/-- The `match` and `mask` of the opcode-table row an instruction belongs to (opcode_table.json). -/
def tableRow : Instr → CmdWord × CmdWord
  | .dispSetDigits _ _ => (0x1000000000, 0xFFFFFF0000)
  | .dispStart => (0x1100000000, 0xFFFFFFFFFF)
  | .dispStop => (0x1200000000, 0xFFFFFFFFFF)
  | .swMeasure => (0x2000000000, 0xFFFFFFFFFF)
  | .echoMeasure => (0x3000000000, 0xFFFFFFFFFF)
  | .pwmSetDuty _ => (0x4000000000, 0xFF00000000)

/-- What the decoder reads from a word numbered as the opcode table numbers it. Every row is 40 bits wide, so `nbits` adds
nothing to the number: bits above it are zero. -/
def decodeTableWord (nbits w : Nat) : Option Instr :=
  if nbits ≤ 40 then (decodeNat w).toOption else none

end Sys2Proof
end

