-- ==== Sys2Proof/Config.lean ====
section
/-! DEFINITION. What is fixed for one machine (the parameters of 00_scope.md R10), and the free values: what the scheduler,
the environment and the callers choose at each step (10_state.md R51, 60_exceptions.md R232, R241). -/

namespace Sys2Proof

/-- `DISP_LONG_WRITE_RETURN`: what a display write of more than two bytes reports (44_charif.md R206). -/
inductive LongWriteReturn where
  | allBytes
  | two
deriving DecidableEq, Repr, Inhabited

/-- The parameters of 00_scope.md R10. No step writes them. -/
structure Config where
  /-- `SEG_TABLE[0..10]` (30_encoding.md R80 to R82). -/
  segTable : Vector Byte 11
  /-- `SEL_ON_LEVEL` (10_state.md R31). -/
  selOnLevel : Level
  /-- `SW_T_LOW_US` (41_singlewire.md R158). -/
  swTLowUs : Nat
  /-- `SW_T_HIGH_US` (41_singlewire.md R158). -/
  swTHighUs : Nat
  /-- `ECHO_DIVISOR` (42_echo.md R175). -/
  echoDivisor : Nat
  /-- `DISP_LONG_WRITE_RETURN` (44_charif.md R206). -/
  longWriteReturn : LongWriteReturn
  /-- `PWM_PARSE_ACCEPT_LF` (44_charif.md R211). -/
  acceptLf : Bool
deriving DecidableEq, Repr

/-- What the spec requires of the parameters: the digit entries have a clear decimal-point bit and differ from the error
entry (30_encoding.md R81 (b), (c)), the divisor is one of its two candidates (42_echo.md R175). -/
def Config.wf (c : Config) : Bool :=
  ((c.segTable.toList.take 10).all fun b => !b.getLsbD 7 && b != c.segTable[10])
    && (c.echoDivisor == 100000 || c.echoDivisor == 1000000)

/-- `PWM_PARSE_ACCEPT_LF` has no default (92_eei_decisions.md D37, OPEN): an uninterpreted constant, log entry 8. -/
opaque Config.pwmParseAcceptLf : Bool

/-- What a HOST caller can ask for: a command word (30_encoding.md R90), attach and detach (70_reset_and_hazards.md R250,
R256), and the eight pseudo-operations of the character interface (44_charif.md R200). -/
inductive Call where
  | word (w : CmdWord)
  | attach (e : Engine)
  | detach (e : Engine)
  | dispWrite (bytes : List Byte)
  | dispRead (offset : Nat)
  | swRead (offset : Nat)
  | swWrite (bytes : List Byte)
  | echoRead (offset : Nat)
  | echoWrite (bytes : List Byte)
  | pwmWrite (bytes : List Byte)
  | pwmRead (offset : Nat)
deriving DecidableEq, Repr

/-- What ENV may do on its own between two steps (60_exceptions.md R232): raise `tau`, or set the line of an input pin. -/
inductive EnvAct where
  | advance (ns : Nat)
  | setLine (p : Pin) (v : Level)
deriving DecidableEq, Repr

/-- Whose step the next one is (60_exceptions.md R240, R241). -/
inductive Agent where
  /-- HOST thread `k` takes its next step. -/
  | host (k : Nat)
  /-- the refresh task takes its next step. -/
  | refresh
  /-- ENV moves. -/
  | env (a : EnvAct)
  /-- a further call reaches HOST thread `k`, behind the calls it already has. -/
  | call (k : Nat) (c : Call)
deriving DecidableEq, Repr, Inhabited

/-- One choice of scheduler and environment: who moves, and what ENV answers if that step asks it something. -/
structure Choice where
  agent : Agent
  /-- the number behind a `Draw` (00_scope.md R12). -/
  draw : Nat
  /-- the answer to a `Commit` (43_pwm.md R189). -/
  accept : Bool
  /-- whether pin acquisition succeeds (70_reset_and_hazards.md R255). -/
  acquire : Bool
deriving DecidableEq, Repr, Inhabited

/-- The free choice at step number `n`: nothing constrains it (60_exceptions.md R232, R241; log entry 2). -/
opaque Config.freeChoice : Nat → Choice

end Sys2Proof
end

