-- ==== Sys2Proof/Machine/Params.lean ====
section
/-! DEFINITION. The constants the source fixes (00_scope.md R9) and the default parameters (00_scope.md R10, 30_encoding.md R82). -/

namespace Sys2Proof.Machine

/-- `T_SETTLE_NS` (R9). -/
def tSettleNs : Nat := 100
/-- `T_DATA_NS` (R9). -/
def tDataNs : Nat := 100
/-- `T_CLKHI_NS` (R9). -/
def tClkHiNs : Nat := 100
/-- `T_CLKLO_NS` (R9). -/
def tClkLoNs : Nat := 100
/-- `T_LATCH_NS` (R9). -/
def tLatchNs : Nat := 100
/-- `SHIFT_BITS` (R9). -/
abbrev shiftBits : Nat := 8
/-- `HOLD_MIN_US` (R9). -/
def holdMinUs : Nat := 250
/-- `HOLD_MAX_US` (R9). -/
def holdMaxUs : Nat := 350
/-- `SW_START_LOW_MS` (R9). -/
def swStartLowMs : Nat := 18
/-- `SW_T_ACK_LOW_US` (R9). -/
def swTAckLowUs : Nat := 1000
/-- `SW_T_ACK_HIGH_US` (R9). -/
def swTAckHighUs : Nat := 100
/-- `SW_FRAME_BITS` (R9). -/
def swFrameBits : Nat := 40
/-- `ECHO_TRIG_US` (R9). -/
def echoTrigUs : Nat := 10
/-- `ECHO_TIMEOUT_US`, 220 × 60 (R9). -/
def echoTimeoutUs : Nat := 13200
/-- `ECHO_SPEED` (R9). -/
def echoSpeed : Nat := 340
/-- `ECHO_SCALE` (R9). -/
def echoScale : Nat := 50
/-- `PWM_PERIOD_NS` (R9). -/
def pwmPeriodNs : Nat := 1000000
/-- `PWM_DEFAULT_PERCENT` (R9). -/
def pwmDefaultPercent : Nat := 50
/-- `PWM_MIN_PERCENT` (R9). -/
def pwmMinPercent : Int := 0
/-- `PWM_MAX_PERCENT` (R9). -/
def pwmMaxPercent : Int := 100
/-- `PWM_MAX_WRITE_BYTES` (R9). -/
def pwmMaxWriteBytes : Nat := 9

/-- The default `SEG_TABLE` (30_encoding.md R82), PRESUMED shapes, log entry 18. -/
def defaultSegTable : Vector Byte 11 :=
  #v[0x3F, 0x06, 0x5B, 0x4F, 0x66, 0x6D, 0x7D, 0x07, 0x7F, 0x6F, 0x79]

/-- The default parameters (00_scope.md R10); the open one is the uninterpreted constant (log entry 8). -/
def defaultConfig : Config where
  segTable := defaultSegTable
  selOnLevel := true
  swTLowUs := 1000
  swTHighUs := 100
  echoDivisor := 100000
  longWriteReturn := .allBytes
  acceptLf := Config.pwmParseAcceptLf

end Sys2Proof.Machine
end

