-- ==== Sys2Proof/Machine/State.lean ====
section
/-! DEFINITION. The state of the block (10_state.md), what stops a run (93_implementation_defined.md), and the state after
attach (10_state.md R52). All of it is plain data. -/

namespace Sys2Proof.Machine

/-- The statuses and errors (60_exceptions.md R220, R221). -/
inductive Status where
  | ok
  | invalidArgument
  | timeoutError
  | checksumError
  | applyError
  | acquireError
deriving DecidableEq, Repr

/-- The single-wire reading (10_state.md R36, 41_singlewire.md R154). -/
structure Reading where
  humidityHigh : Byte
  humidityLow : Byte
  temperatureHigh : Byte
  temperatureLow : Byte
  checksum : Byte
  /-- the published temperature value. -/
  temperature : Byte
deriving DecidableEq, Repr

/-- What a caller gets back (30_encoding.md R102, 44_charif.md R200, R218). -/
inductive Return where
  /-- nothing: the display operations, and detach. -/
  | void
  /-- a status alone: `PWM_SET_DUTY`, attach. -/
  | status (st : Status)
  /-- the single-wire record: a reading unless `st` is `TimeoutError` (10_state.md R36). -/
  | reading (st : Status) (r : Option Reading)
  /-- the echo record: a distance when `st` is `Ok` (10_state.md R41). -/
  | distance (st : Status) (d : Option Nat)
  /-- a character write: the number of bytes reported consumed. -/
  | wrote (n : Nat)
  /-- a character read: its bytes, and the caller's stream position after it. -/
  | bytes (bs : List Byte) (offset : Nat)
  /-- a character call that failed (44_charif.md R218). -/
  | error (st : Status)
deriving DecidableEq, Repr

/-- In which form a caller wants its answer: as the operation gives it, or as a pseudo-operation of the character interface
makes of it (44_charif.md R200). -/
inductive Reply where
  | direct
  /-- a write that reports `n` bytes when it succeeds. -/
  | wrote (n : Nat)
  /-- `SW_READ` at this offset. -/
  | swRead (offset : Nat)
  /-- `ECHO_READ` at this offset. -/
  | echoRead (offset : Nat)
deriving DecidableEq, Repr

/-- The operation a HOST thread is inside of (60_exceptions.md R240). -/
inductive Activity where
  | idle
  /-- `DISP_SET_DIGITS` with its second byte still to be written (40_display.md R112). -/
  | setDigits (u : Byte)
  /-- `DISP_STOP` in its hold (40_display.md R114). -/
  | stopHold
  /-- executing `SW_MEASURE`. -/
  | swMeasure
  /-- executing `ECHO_MEASURE`. -/
  | echoMeasure
deriving DecidableEq, Repr

/-- One caller thread of HOST. -/
structure Thread where
  /-- the calls it will make, in order. -/
  calls : List Call
  /-- the operation it is inside of. -/
  act : Activity
  /-- the form its answer takes. -/
  reply : Reply
  /-- what its last operation returned; `none` before the first return. -/
  ret : Option Return
deriving DecidableEq, Repr

/-- The phases of the refresh loop (10_state.md R30). -/
inductive RfPhase where
  | rfIdle | rfCheck | rfDesel | rfLower | rfLoad | rfBit | rfLatch | rfSelect | rfHold | rfExit
deriving DecidableEq, Repr

/-- The phases of a single-wire measurement (10_state.md R37). -/
inductive SwPhase where
  | swIdle | swStart | swRelease | swAckLow | swAckHigh | swPreambleEnd | swBitFirst | swBitSecond | swTail | swRestore | swCheck
deriving DecidableEq, Repr

/-- The phases of an echo measurement (10_state.md R42). -/
inductive EcPhase where
  | ecIdle | ecTrigger | ecWaitHigh | ecWaitLow | ecConvert
deriving DecidableEq, Repr

/-- `disp.rf_phase` with its sub-index: one value per atomic step of the refresh loop (10_state.md R30; 40_display.md R116 to
R128). -/
inductive RfPc where
  | idle
  | check
  | deselUnits | deselTens
  | lowerClk | lowerLatch | lowerWait
  | load
  | bitData | bitDataWait | bitClkHigh | bitHighWait | bitClkLow | bitLowWait
  | latchRaise | latchWait
  | selectOn | selectDraw
  | holdWait | holdEnd
  | exitUnits | exitTens | exitClk | exitLatch | exitDone
deriving DecidableEq, Repr

/-- The steps A, B, C of `WaitLevel` (41_singlewire.md R140). -/
inductive WaitSub where
  | a
  | b
  | c
deriving DecidableEq, Repr

/-- The local registers of `WaitLevel` (10_state.md R35). -/
structure WaitLocals where
  t0 : Nat
  l : Level
  t : Nat
deriving DecidableEq, Repr

/-- The six waits of a single-wire measurement, one per waiting phase (41_singlewire.md R145 to R152). -/
inductive SwWait where
  | ackLow
  | ackHigh
  | preambleEnd
  | bitFirst
  | bitSecond
  | tail
deriving DecidableEq, Repr

/-- `sw.phase` with its sub-index (10_state.md R37). The first action of `SW_START` belongs to the step that admits the
operation (log entry 1), so no value stands for it. -/
inductive SwPc where
  | idle
  | startLow | startDelay
  | relHigh | relIn
  | wait (st : SwWait) (sub : WaitSub)
  | restoreDir | restoreHigh
  | check
deriving DecidableEq, Repr

/-- The two waits of an echo measurement (42_echo.md R172, R173). -/
inductive EcWait where
  | high
  | low
deriving DecidableEq, Repr

/-- `echo.phase` with its sub-index (10_state.md R42). -/
inductive EcPc where
  | idle
  | trigDelay | trigLow
  | wait (st : EcWait) (sub : WaitSub)
  | convert
deriving DecidableEq, Repr

/-- A pin (10_state.md R21). -/
structure PinHandle where
  dir : Dir
  /-- the output latch. -/
  out : Level
  /-- the level on the line. -/
  line : Level
deriving DecidableEq, Repr

/-- The named pins (10_state.md R31, R38, R43; log entry 9). -/
structure Pins where
  data : PinHandle
  clk : PinHandle
  latch : PinHandle
  selUnits : PinHandle
  selTens : PinHandle
  sw : PinHandle
  trig : PinHandle
  echo : PinHandle
deriving DecidableEq, Repr

/-- ShiftRegisterDisplay, DisplayState apart (10_state.md R24 to R30). -/
structure Disp where
  /-- the instance exists (70_reset_and_hazards.md R250, R256). -/
  attached : Bool
  running : Bool
  stopReq : Bool
  half : Half
  pat : Byte
  bit : Fin shiftBits
  holdUs : Nat
  pc : RfPc
  /-- the deadline of the delay in progress (60_exceptions.md R231). -/
  wake : Option Nat
deriving DecidableEq, Repr

/-- SingleWirePulseDecoder (10_state.md R32 to R37). -/
structure Sw where
  attached : Bool
  frame : BitVec 40
  k : Nat
  d1 : Nat
  d2 : Nat
  wait : WaitLocals
  pc : SwPc
  wake : Option Nat
deriving DecidableEq, Repr

/-- EchoRangeMeter (10_state.md R40 to R42). -/
structure Echo where
  attached : Bool
  t : Nat
  dist : Nat
  wait : WaitLocals
  pc : EcPc
  wake : Option Nat
deriving DecidableEq, Repr

/-- PwmState (10_state.md R45, 30_encoding.md R104). -/
structure PwmState where
  periodNs : BitVec 64
  dutyNs : BitVec 64
  enabled : Bool
deriving DecidableEq, Repr

/-- DutyCycleController (10_state.md R44, R45). -/
structure Pwm where
  attached : Bool
  lastPercent : Nat
  out : PwmState
deriving DecidableEq, Repr

/-- The external shift register (10_state.md R50 (b), 60_exceptions.md R233). -/
structure Ext where
  sr : Byte
  q : Byte
  /-- observer of the model's own, log entry 15: rising edges of `CLK` since `LATCH` last fell. -/
  pulses : Nat
deriving DecidableEq, Repr

/-- The whole state. `script`, `tick`, `ext.pulses` and `commits` are the model's own (log entries 2, 15). -/
structure State where
  /-- the parameters, written by no step (00_scope.md R10). -/
  cfg : Config
  disp : Disp
  sw : Sw
  echo : Echo
  pwm : Pwm
  /-- DisplayState: `DS[0]` is the tens digit, `DS[1]` the units digit (20_memory.md R61). -/
  mem : List Host.Cell
  pins : Pins
  ext : Ext
  /-- the global time in nanoseconds (60_exceptions.md R230). -/
  tau : Nat
  /-- the caller threads of HOST (60_exceptions.md R240). -/
  threads : List Thread
  /-- the coming choices of scheduler, ENV and HOST; when there is none left the free choice stands in. -/
  script : List Choice
  /-- how many steps have been taken. -/
  tick : Nat
  /-- how many `Commit` calls have been made. -/
  commits : Nat
deriving DecidableEq, Repr

/-- The block has no machine fault: "The block has no traps and no interrupts: an operation that fails returns an error to its
caller" (60_exceptions.md). An error is a `Status` in what the caller gets back, so this type is empty. -/
inductive Fault where
deriving DecidableEq, Repr

/-- Requests that the spec gives no step (93_implementation_defined.md part 1, treatment `refuse`). Each one is safe: nothing can
be proved of what the hardware would do after it. -/
inductive Refusal where
  /-- an instruction of the opcode table without a meaning yet; raised only by an arm of `exec`; safe. -/
  | notModelled (mnemonic : String)
  /-- U8: a command word that spells no operation, raised by the fetch; safe. -/
  | invalidWord (e : DecodeError)
  /-- U1: `DISP_START` while `disp.running = 1`, raised by `execDispStart`; safe. -/
  | startWhileRunning
  /-- U3: `DISP_START` while a `DISP_STOP` is in progress (60_exceptions.md R243, D35; log entry 27), raised by `execDispStart`; safe. -/
  | startDuringStop
  /-- U2: `DISP_STOP` while `disp.running = 0`, raised by `execDispStop`; safe. -/
  | stopWhileNotRunning
  /-- U2: a second `DISP_STOP` while one is in progress, raised by `execDispStop`; safe. -/
  | stopInProgress
  /-- U3: `SW_MEASURE` while one is in progress, raised by `execSwMeasure`; safe. -/
  | swBusy
  /-- U3: `ECHO_MEASURE` while one is in progress, raised by `execEchoMeasure`; safe. -/
  | echoBusy
  /-- U6: an operation on an engine that is not attached, raised by every operation; safe. -/
  | notAttached (e : Engine)
  /-- U6: detach of a busy engine, raised by `detach`; safe. -/
  | detachBusy (e : Engine)
  /-- attach of an engine that is attached (log entry 11), raised by `attach`; safe. -/
  | attachedTwice (e : Engine)
  /-- U7: a write to the single-wire or the ultrasonic character device, raised by `issue`; safe. -/
  | undefinedWrite (e : Engine)
  /-- U9: a memory access at an address other than 0 and 1 or a width other than 1, raised by `memRead` and `memWrite`; safe. -/
  | memoryAccess
deriving DecidableEq, Repr

/-- An output pin that drives `v`. -/
def PinHandle.driving (v : Level) : PinHandle := ⟨.output, v, v⟩

/-- The pins after attach (10_state.md R52). `SEL_OFF` is `1 - SEL_ON_LEVEL` (R31). The latch and the line of `ECHO` are given
no value there (log entries 6, 7). -/
def Pins.reset (c : Config) : Pins where
  data := .driving false
  clk := .driving false
  latch := .driving false
  selUnits := .driving (!c.selOnLevel)
  selTens := .driving (!c.selOnLevel)
  sw := .driving true
  trig := .driving false
  echo := ⟨.input, false, false⟩

/-- The state after attach (10_state.md R52). Registers marked "no value" there hold the values of log entry 6, ENV's state those
of log entry 7. -/
def State.reset : State where
  cfg := defaultConfig
  disp := { attached := true, running := false, stopReq := false, half := .units, pat := 0, bit := 0, holdUs := 0,
            pc := .idle, wake := none }
  sw := { attached := true, frame := 0, k := 0, d1 := 0, d2 := 0, wait := ⟨0, false, 0⟩, pc := .idle, wake := none }
  echo := { attached := true, t := 0, dist := 0, wait := ⟨0, false, 0⟩, pc := .idle, wake := none }
  pwm := { attached := true, lastPercent := 50, out := ⟨1000000, 500000, true⟩ }
  mem := []
  pins := Pins.reset defaultConfig
  ext := ⟨0, 0, 0⟩
  tau := 0
  threads := []
  script := []
  tick := 0
  commits := 0

end Sys2Proof.Machine
end

