-- ==== Sys2Proof/Machine/Operands.lean ====
section
/-! DEFINITION. What each operation computes from its operands and registers, once each: the segment lookup, the duty, the
distance, the frame (30_encoding.md R82, R86, R97; 40_display.md R110; 41_singlewire.md R150, R154; 42_echo.md R175;
43_pwm.md R187, R188). -/

namespace Sys2Proof.Machine

/-- `SEL_ON` and `SEL_OFF` (10_state.md R31). -/
def selOn (c : Config) : Level := c.selOnLevel

/-- `SEL_OFF` is the other level (10_state.md R31). -/
def selOff (c : Config) : Level := !c.selOnLevel

/-- `digit_to_segments(d)` (40_display.md R110). -/
def digitToSegments (c : Config) (d : Byte) : Byte :=
  if h : d.toNat ≤ 9 then c.segTable[d.toNat]'(by omega) else c.segTable[10]

/-- The DisplayState byte a half-cycle samples: `DS[1]` for the units, `DS[0]` for the tens (40_display.md R120). -/
def digitAddr : Half → Nat
  | .units => 1
  | .tens => 0

/-- `Draw(lo, hi)`: every integer from `lo` to `hi` is the draw of some number, and nothing else is (00_scope.md R12, log entry 5). -/
def drawFrom (lo hi raw : Nat) : Nat := lo + raw % (hi - lo + 1)

/-- The range check of `PWM_SET_DUTY`, both ends included (43_pwm.md R187). -/
def dutyInRange (p : Int) : Bool := decide (pwmMinPercent ≤ p ∧ p ≤ pwmMaxPercent)

/-- `duty_ns` of a percentage: the product first, then one floor division (43_pwm.md R188). -/
def dutyNsOf (percent : Nat) : Nat := pwmPeriodNs * percent / 100

/-- The PwmState of a percentage; `enabled` is true in every commit (43_pwm.md R186, R189, R192). -/
def pwmStateOf (percent : Nat) : PwmState :=
  ⟨BitVec.ofNat 64 pwmPeriodNs, BitVec.ofNat 64 (dutyNsOf percent), true⟩

/-- The distance conversion: the product in full, then one floor division (42_echo.md R175, R176). -/
def distanceOf (c : Config) (t : Nat) : Nat := t * echoSpeed * echoScale / c.echoDivisor

/-- The accumulation of one bit (41_singlewire.md R150). -/
def pushBit (frame : BitVec 40) (b : Bool) : BitVec 40 := (frame <<< 1) ||| (if b then 1 else 0)

/-- The field split (41_singlewire.md R154, 30_encoding.md R86). -/
def readingOf (frame : BitVec 40) : Reading where
  humidityHigh := frame.extractLsb' 32 8
  humidityLow := frame.extractLsb' 24 8
  temperatureHigh := frame.extractLsb' 16 8
  temperatureLow := frame.extractLsb' 8 8
  checksum := frame.extractLsb' 0 8
  temperature := frame.extractLsb' 16 8

/-- The level each single-wire wait waits for (41_singlewire.md R145, R146, R148, R149, R152). -/
def SwWait.level : SwWait → Level
  | .ackLow => false
  | .ackHigh => true
  | .preambleEnd => false
  | .bitFirst => true
  | .bitSecond => false
  | .tail => true

/-- The timeout of each single-wire wait (41_singlewire.md R145, R158). -/
def SwWait.timeoutUs (c : Config) : SwWait → Nat
  | .ackLow => swTAckLowUs
  | .ackHigh => swTAckHighUs
  | .preambleEnd => c.swTLowUs
  | .bitFirst => c.swTHighUs
  | .bitSecond => c.swTLowUs
  | .tail => c.swTHighUs

/-- The level each echo wait waits for (42_echo.md R172, R173). -/
def EcWait.level : EcWait → Level
  | .high => true
  | .low => false

/-- The phase a step of the refresh loop belongs to (40_display.md R116 to R128). -/
def RfPc.phase : RfPc → RfPhase
  | .idle => .rfIdle
  | .check => .rfCheck
  | .deselUnits | .deselTens => .rfDesel
  | .lowerClk | .lowerLatch | .lowerWait => .rfLower
  | .load => .rfLoad
  | .bitData | .bitDataWait | .bitClkHigh | .bitHighWait | .bitClkLow | .bitLowWait => .rfBit
  | .latchRaise | .latchWait => .rfLatch
  | .selectOn | .selectDraw => .rfSelect
  | .holdWait | .holdEnd => .rfHold
  | .exitUnits | .exitTens | .exitClk | .exitLatch | .exitDone => .rfExit

/-- The phase a step of a single-wire measurement belongs to (41_singlewire.md R143 to R155). -/
def SwPc.phase : SwPc → SwPhase
  | .idle => .swIdle
  | .startLow | .startDelay => .swStart
  | .relHigh | .relIn => .swRelease
  | .wait .ackLow _ => .swAckLow
  | .wait .ackHigh _ => .swAckHigh
  | .wait .preambleEnd _ => .swPreambleEnd
  | .wait .bitFirst _ => .swBitFirst
  | .wait .bitSecond _ => .swBitSecond
  | .wait .tail _ => .swTail
  | .restoreDir | .restoreHigh => .swRestore
  | .check => .swCheck

/-- The phase a step of an echo measurement belongs to (42_echo.md R171 to R175). -/
def EcPc.phase : EcPc → EcPhase
  | .idle => .ecIdle
  | .trigDelay | .trigLow => .ecTrigger
  | .wait .high _ => .ecWaitHigh
  | .wait .low _ => .ecWaitLow
  | .convert => .ecConvert

end Sys2Proof.Machine
end

