-- ==== Sys2Proof/Machine/Flags.lean ====
section
/-! DEFINITION. The statuses and verdicts the operations compute (10_state.md R47; 60_exceptions.md R221; 30_encoding.md R87, R89;
41_singlewire.md R150, R155). -/

namespace Sys2Proof.Machine

/-- The numeric codes of the statuses (60_exceptions.md R221). -/
def Status.code : Status → Nat
  | .ok => 0
  | .invalidArgument => 1
  | .timeoutError => 2
  | .checksumError => 3
  | .applyError => 4
  | .acquireError => 5

/-- The bit decision: 1 when the first interval is less than the second; equal intervals give 0 (30_encoding.md R89,
41_singlewire.md R150). -/
def bitOf (d1 d2 : Nat) : Bool := decide (d1 < d2)

/-- The sum of the four fields modulo 256 (30_encoding.md R87). -/
def checksumOf (r : Reading) : Byte :=
  r.humidityHigh + r.humidityLow + r.temperatureHigh + r.temperatureLow

/-- The verdict on a reading (41_singlewire.md R155). -/
def checksumStatus (r : Reading) : Status :=
  if checksumOf r = r.checksum then .ok else .checksumError

end Sys2Proof.Machine
end

