-- ==== Sys2Proof/Machine/CharIf.lean ====
section
/-! DEFINITION. The bytes of the character interface: what a write spells and what a read shows (44_charif.md R201 to R218). -/

namespace Sys2Proof.Machine

/-- Byte to digit (44_charif.md R203). -/
def digitOf (b : Byte) : Byte := b - 0x30

/-- The operation a display write expands to, selected by its byte count (44_charif.md R201, R202, R204, R205, R206). -/
def dispWriteInstr : List Byte → Instr
  | [] => .dispSetDigits 0 0
  | [b] => .dispSetDigits 0 (digitOf b)
  | b0 :: b1 :: _ => .dispSetDigits (digitOf b0) (digitOf b1)

/-- The byte count a display write reports (44_charif.md R201, R206). -/
def dispWriteCount (c : Config) (bs : List Byte) : Nat :=
  if bs.length ≤ 2 then bs.length
  else match c.longWriteReturn with
    | .allBytes => bs.length
    | .two => 2

/-- The ASCII digits (44_charif.md R211). -/
def isDigit (b : Byte) : Bool := decide (0x30 ≤ b.toNat ∧ b.toNat ≤ 0x39)

/-- `digit { digit } [ LF ]` with `acc` the value so far and `seen` whether a digit has been read (44_charif.md R211). -/
def parseDigits (acceptLf : Bool) : List Byte → Nat → Bool → Option Nat
  | [], acc, seen => if seen then some acc else none
  | b :: rest, acc, seen =>
    if isDigit b then parseDigits acceptLf rest (acc * 10 + (digitOf b).toNat) true
    else if b = 0x0A ∧ acceptLf = true ∧ seen = true ∧ rest = [] then some acc
    else none

/-- `number` over the bytes of a PWM write (44_charif.md R211). -/
def parseNumber (acceptLf : Bool) : List Byte → Option Int
  | [] => none
  | b :: rest =>
    if b = 0x2B then (parseDigits acceptLf rest 0 false).map fun (n : Nat) => (n : Int)
    else if b = 0x2D then (parseDigits acceptLf rest 0 false).map fun (n : Nat) => -(n : Int)
    else (parseDigits acceptLf (b :: rest) 0 false).map fun (n : Nat) => (n : Int)

/-- The parse of a PWM write: more than nine bytes fail (44_charif.md R211). -/
def parsePercent (acceptLf : Bool) (bs : List Byte) : Option Int :=
  if bs.length ≤ pwmMaxWriteBytes then parseNumber acceptLf bs else none

/-- The decimal digits of `n` put before `acc`; `fuel` bounds their number. -/
def decimalAux : Nat → Nat → List Byte → List Byte
  | 0, _, acc => acc
  | fuel + 1, n, acc =>
    if n / 10 = 0 then BitVec.ofNat 8 (0x30 + n % 10) :: acc
    else decimalAux fuel (n / 10) (BitVec.ofNat 8 (0x30 + n % 10) :: acc)

/-- A natural number in decimal ASCII, most significant digit first, no leading zeros (44_charif.md R208). -/
def decimal (n : Nat) : List Byte := decimalAux (n + 1) n []

/-- "Distance : D.d" and a line feed, `D = v div 10`, `d = v mod 10` (44_charif.md R214, R215). -/
def distanceBytes (v : Nat) : List Byte :=
  [0x44, 0x69, 0x73, 0x74, 0x61, 0x6E, 0x63, 0x65, 0x20, 0x3A, 0x20]
    ++ decimal (v / 10) ++ [0x2E, BitVec.ofNat 8 (0x30 + v % 10), 0x0A]

/-- A read's answer: its bytes, and the stream position advanced by their count (44_charif.md R208, log entry 23). -/
def readAnswer (offset : Nat) (bs : List Byte) : Return := .bytes bs (offset + bs.length)

/-- What the caller is handed when its operation returns `r`: `r` itself, or what its pseudo-operation makes of `r`
(44_charif.md R201, R208, R210, R214, R216, R218). -/
def Reply.answer : Reply → Return → Return
  | .direct, r => r
  | .wrote n, .void => .wrote n
  | .wrote n, .status .ok => .wrote n
  | .wrote _, .status st => .error st
  | .wrote _, r => r
  | .swRead off, .reading _ (some r) => readAnswer off (decimal r.temperature.toNat)
  | .swRead _, .reading st none => .error st
  | .swRead _, r => r
  | .echoRead off, .distance _ (some d) => readAnswer off (distanceBytes d)
  | .echoRead _, .distance st none => .error st
  | .echoRead _, r => r

end Sys2Proof.Machine
end

