-- ==== Sys2Proof/Machine/Ops.lean ====
section
/-! DEFINITION. The named operations over memory, pins, time, the collaborators and the callers, and the shared ways an operation
ends (00_scope.md R12; 20_memory.md R61, R67 to R69; 41_singlewire.md R140; 43_pwm.md R189; 60_exceptions.md R223, R230, R231,
R233). -/

namespace Sys2Proof.Machine

/-! ## Choices and callers -/

/-- The choice that governs the next step (60_exceptions.md R232, R241; log entry 2). -/
def State.choice (s : State) : Choice :=
  match s.script with
  | c :: _ => c
  | [] => Config.freeChoice s.tick

/-- The HOST thread that is taking this step; 0 when the step is no thread's. -/
def State.caller (s : State) : Nat :=
  match s.choice.agent with
  | .host k => k
  | _ => 0

/-- Change the thread that is taking this step. -/
def State.updCaller (f : Thread → Thread) (s : State) : State :=
  { s with threads := s.threads.modify s.caller f }

/-- The calling thread is now inside of an operation. -/
def State.enter (a : Activity) (s : State) : State := s.updCaller fun th => { th with act := a }

/-- The answer the calling thread is to be given has this form. -/
def State.setReply (r : Reply) (s : State) : State := s.updCaller fun th => { th with reply := r }

/-- The operation returns `r` to its caller, in the form the caller wants (30_encoding.md R102, 60_exceptions.md R223). -/
def State.giveBack (r : Return) (s : State) : State :=
  s.updCaller fun th => { th with act := .idle, reply := .direct, ret := some (th.reply.answer r) }

/-- Some thread is inside of `DISP_STOP` (60_exceptions.md R243). -/
def State.stopInProgress (s : State) : Bool := s.threads.any fun th => th.act == .stopHold

/-- Some thread is inside of `DISP_SET_DIGITS`. -/
def State.setInProgress (s : State) : Bool :=
  s.threads.any fun th => match th.act with
    | .setDigits _ => true
    | _ => false

/-- The engine has an instance (70_reset_and_hazards.md R250, R256). -/
def State.attached (s : State) : Engine → Bool
  | .disp => s.disp.attached
  | .sw => s.sw.attached
  | .echo => s.echo.attached
  | .pwm => s.pwm.attached

/-! ## DisplayState memory (20_memory.md R61) -/

/-- One byte of a cell list; a byte that is not listed is 0, the reset value (10_state.md R52, log entry 21). -/
def Memory.read : List Host.Cell → Nat → Byte
  | [], _ => 0
  | (b, v) :: m, a => if b = a then v else Memory.read m a

/-- Write one byte and keep the cells in order, with no cell that holds 0. -/
def Memory.write : List Host.Cell → Nat → Byte → List Host.Cell
  | [], a, v => if v = 0 then [] else [(a, v)]
  | (b, w) :: m, a, v =>
    if a < b then (if v = 0 then (b, w) :: m else (a, v) :: (b, w) :: m)
    else if a = b then (if v = 0 then m else (a, v) :: m)
    else (b, w) :: Memory.write m a v

/-- Addresses strictly rise. -/
def Memory.rising : List Host.Cell → Bool
  | [] => true
  | [_] => true
  | c :: d :: m => decide (c.1 < d.1) && Memory.rising (d :: m)

/-- The canonical form: addresses strictly rising, none outside the two bytes, no cell that holds 0. -/
def Memory.wf (m : List Host.Cell) : Bool :=
  Memory.rising m && m.all fun c => decide (c.1 < 2) && c.2 != 0

/-- `MemRead(a, n)`: one byte at address 0 or 1, nothing else (20_memory.md R61). -/
def memRead (a n : Nat) (s : State) : Except Refusal Byte :=
  if a < 2 ∧ n = 1 then .ok (Memory.read s.mem a) else .error .memoryAccess

/-- `MemWrite(a, n, v)`: byte `DS[a]` becomes `v mod 256` (20_memory.md R61). -/
def memWrite (a n v : Nat) (s : State) : Except Refusal State :=
  if a < 2 ∧ n = 1 then .ok { s with mem := Memory.write s.mem a (BitVec.ofNat 8 v) } else .error .memoryAccess

/-- `disp.digit_tens` (10_state.md R22). -/
def State.digitTens (s : State) : Byte := Memory.read s.mem 0

/-- `disp.digit_units` (10_state.md R23). -/
def State.digitUnits (s : State) : Byte := Memory.read s.mem 1

/-- Go on with the state an access gives, or stop with its refusal. -/
def continueWith {α : Type} (r : Except Refusal α) (f : α → Host.Outcome State Fault Refusal) :
    Host.Outcome State Fault Refusal :=
  match r with
  | .ok x => f x
  | .error e => .refused e

/-! ## Pins (20_memory.md R67 to R69) and the register behind them (60_exceptions.md R233) -/

/-- The handle of a pin. -/
def Pins.get (ps : Pins) : Pin → PinHandle
  | .data => ps.data
  | .clk => ps.clk
  | .latch => ps.latch
  | .selUnits => ps.selUnits
  | .selTens => ps.selTens
  | .sw => ps.sw
  | .trig => ps.trig
  | .echo => ps.echo

/-- Replace the handle of a pin. -/
def Pins.set (ps : Pins) (p : Pin) (h : PinHandle) : Pins :=
  match p with
  | .data => { ps with data := h }
  | .clk => { ps with clk := h }
  | .latch => { ps with latch := h }
  | .selUnits => { ps with selUnits := h }
  | .selTens => { ps with selTens := h }
  | .sw => { ps with sw := h }
  | .trig => { ps with trig := h }
  | .echo => { ps with echo := h }

/-- The line goes from 0 to 1. -/
def PinHandle.rises (before after : PinHandle) : Bool := !before.line && after.line

/-- What the external shift register makes of a change of the lines: it shifts on a rising clock and copies on a rising latch
(60_exceptions.md R233; log entries 14, 15). -/
def Ext.react (e : Ext) (before after : Pins) : Ext where
  sr := if before.clk.rises after.clk then (e.sr <<< 1) ||| (if after.data.line then 1 else 0) else e.sr
  q := if before.latch.rises after.latch then e.sr else e.q
  pulses := if after.latch.rises before.latch then 0
            else if before.clk.rises after.clk then e.pulses + 1 else e.pulses

/-- The pins change; the external register sees it in the same step. -/
def State.setPins (ps : Pins) (s : State) : State :=
  { s with pins := ps, ext := s.ext.react s.pins ps }

/-- `PinWrite(p, v)` on a handle (20_memory.md R67). -/
def PinHandle.write (h : PinHandle) (v : Level) : PinHandle :=
  { h with out := v, line := if h.dir = .output then v else h.line }

/-- `PinDir(p, d)` on a handle (20_memory.md R69; log entry 16). -/
def PinHandle.turn (h : PinHandle) (d : Dir) : PinHandle :=
  { h with dir := d, line := if d = .output then h.out else h.line }

/-- `PinWrite(p, v)` (20_memory.md R67). -/
def State.pinWrite (p : Pin) (v : Level) (s : State) : State :=
  s.setPins (s.pins.set p ((s.pins.get p).write v))

/-- `PinDir(p, d)` (20_memory.md R69). -/
def State.pinDir (p : Pin) (d : Dir) (s : State) : State :=
  s.setPins (s.pins.set p ((s.pins.get p).turn d))

/-- `PinRead(p)` (20_memory.md R68). -/
def State.pinRead (p : Pin) (s : State) : Level := (s.pins.get p).line

/-! ## Time (60_exceptions.md R230, R231) -/

/-- `NowUs()` (60_exceptions.md R230). -/
def State.nowUs (s : State) : Nat := s.tau / 1000

/-- What a turn inside of a `Delay` comes to. -/
inductive DelayTurn where
  /-- the delay begins and must last until this time. -/
  | starts (deadline : Nat)
  /-- the time is not reached: no step. -/
  | held
  /-- the delay completes. -/
  | over
deriving DecidableEq, Repr

/-- `Delay_ns(n)`: it begins at `tau` and completes at a time `tau' >= tau + n` (60_exceptions.md R231; log entry 4). -/
def delayTurn (n tau : Nat) (wake : Option Nat) : DelayTurn :=
  match wake with
  | none => .starts (tau + n)
  | some w => if w ≤ tau then .over else .held

/-! ## The bounded poll (41_singlewire.md R140) -/

/-- What one step of `WaitLevel` comes to. -/
inductive WaitTurn where
  /-- the poll goes on at this step. -/
  | goesOn (sub : WaitSub) (w : WaitLocals)
  /-- it returns `Done(d)`. -/
  | done (d : Nat) (w : WaitLocals)
  /-- it returns `Timeout`. -/
  | timeout (w : WaitLocals)
deriving DecidableEq, Repr

/-- One step of `WaitLevel(p, level, T)`, given the level on the line of `p` and the clock (41_singlewire.md R140). -/
def waitTurn (level : Level) (T : Nat) (line : Level) (now : Nat) (w : WaitLocals) : WaitSub → WaitTurn
  | .a => .goesOn .b { w with t0 := now }
  | .b => .goesOn .c { w with l := line }
  | .c =>
    if w.l = level then .done (now - w.t0) { w with t := now }
    else if now - w.t0 > T then .timeout { w with t := now }
    else .goesOn .b { w with t := now }

/-! ## The output collaborator (43_pwm.md R189) -/

/-- `Commit(ps)`: accepted or rejected as a whole, by ENV's choice (43_pwm.md R189; 20_memory.md R70). -/
def State.commit (ps : PwmState) (s : State) : State :=
  { s with pwm := { s.pwm with out := if s.choice.accept then ps else s.pwm.out }, commits := s.commits + 1 }

/-! ## How an operation ends (60_exceptions.md R223) -/

/-- "The engine's phase register returns to its idle value" (60_exceptions.md R223); the other two engines have none to return. -/
def State.goIdle (e : Engine) (s : State) : State :=
  match e with
  | .disp => s
  | .sw => { s with sw := { s.sw with pc := .idle } }
  | .echo => { s with echo := { s.echo with pc := .idle } }
  | .pwm => s

/-- `raise`: the operation ends at this step with `r` as its result; nothing is saved and no mode changes (60_exceptions.md R223). -/
def State.raise (e : Engine) (r : Return) (s : State) : State := (s.goIdle e).giveBack r

end Sys2Proof.Machine
end

