-- ==== Sys2Proof/Machine/Attach.lean ====
section
/-! DEFINITION. Attach, the reset of this hardware, and detach (70_reset_and_hazards.md R250 to R257). -/

namespace Sys2Proof.Machine

/-- Attach of a display instance, its pins and registers set (70_reset_and_hazards.md R251, 10_state.md R52). -/
def attachDisp (s : State) : State :=
  let r := Pins.reset s.cfg
  let s := s.setPins { s.pins with
    data := r.data, clk := r.clk, latch := r.latch, selUnits := r.selUnits, selTens := r.selTens }
  { s with
    mem := Memory.write (Memory.write s.mem 0 0) 1 0
    disp := { s.disp with attached := true, running := false, stopReq := false, pc := .idle, wake := none } }

/-- Attach of a single-wire instance (70_reset_and_hazards.md R252, 10_state.md R52). -/
def attachSw (s : State) : State :=
  let s := s.setPins { s.pins with sw := (Pins.reset s.cfg).sw }
  { s with sw := { s.sw with attached := true, pc := .idle, wake := none } }

/-- Attach of an echo instance; the latch and the line of `ECHO` are given no value (70_reset_and_hazards.md R253, 10_state.md
R52). -/
def attachEcho (s : State) : State :=
  let s := s.setPins { s.pins with trig := (Pins.reset s.cfg).trig, echo := s.pins.echo.turn .input }
  { s with echo := { s.echo with attached := true, pc := .idle, wake := none } }

/-- Attach of a PWM instance: the default commit; if it is rejected there is no instance (70_reset_and_hazards.md R254, 43_pwm.md
R192). -/
def attachPwm (s : State) : State :=
  if s.choice.accept then
    let s' := s.commit (pwmStateOf pwmDefaultPercent)
    { s' with pwm := { s'.pwm with attached := true, lastPercent := pwmDefaultPercent } }.giveBack (.status .ok)
  else (s.commit (pwmStateOf pwmDefaultPercent)).raise .pwm (.status .applyError)

/-- Attach of an engine: acquisition first, which ENV may refuse before any pin is written (70_reset_and_hazards.md R250, R255;
log entries 10, 11). -/
def attach (e : Engine) (s : State) : Host.Outcome State Fault Refusal :=
  if s.attached e then .refused (.attachedTwice e)
  else .next (
    if s.choice.acquire then
      match e with
      | .disp => (attachDisp s).giveBack (.status .ok)
      | .sw => (attachSw s).giveBack (.status .ok)
      | .echo => (attachEcho s).giveBack (.status .ok)
      | .pwm => attachPwm s
    else s.raise e (.status .acquireError))

/-- The engine is in use (70_reset_and_hazards.md R256; log entry 12). -/
def State.busy (s : State) : Engine → Bool
  | .disp => s.disp.running || s.stopInProgress || s.setInProgress
  | .sw => s.sw.pc != .idle
  | .echo => s.echo.pc != .idle
  | .pwm => false

/-- The instance exists no more. -/
def State.dropInstance (e : Engine) (s : State) : State :=
  match e with
  | .disp => { s with disp := { s.disp with attached := false } }
  | .sw => { s with sw := { s.sw with attached := false } }
  | .echo => { s with echo := { s.echo with attached := false } }
  | .pwm => { s with pwm := { s.pwm with attached := false } }

/-- Detach: only when idle; it writes no pin (70_reset_and_hazards.md R256). -/
def detach (e : Engine) (s : State) : Host.Outcome State Fault Refusal :=
  if s.attached e then
    if s.busy e then .refused (.detachBusy e) else .next ((s.dropInstance e).giveBack .void)
  else .refused (.notAttached e)

end Sys2Proof.Machine
end

