-- ==== Sys2Proof/Machine/Display.lean ====
section
/-! DEFINITION. ShiftRegisterDisplay: the three operations and the refresh loop (40_display.md R110 to R134). -/

namespace Sys2Proof.Machine

/-! ## The operations (40_display.md R112 to R114) -/

/-- `DISP_SET_DIGITS t, u`, first atomic step: `MemWrite(0, 1, t)`; the second byte is written by the thread's next step
(40_display.md R112; log entry 1). -/
def execDispSetDigits (t u : Byte) (s : State) : Host.Outcome State Fault Refusal :=
  if s.disp.attached then
    continueWith (memWrite 0 1 t.toNat s) fun s' => .next (s'.enter (.setDigits u))
  else .refused (.notAttached .disp)

/-- `DISP_SET_DIGITS`, second atomic step: `MemWrite(1, 1, u)`, and the operation returns nothing (40_display.md R112). -/
def setDigitsSecond (u : Byte) (s : State) : Host.Outcome State Fault Refusal :=
  continueWith (memWrite 1 1 u.toNat s) fun s' => .next (s'.giveBack .void)

/-- `DISP_START`, one atomic step (40_display.md R113); refused while the display runs or a `DISP_STOP` is in progress
(60_exceptions.md R243; log entry 27). -/
def execDispStart (s : State) : Host.Outcome State Fault Refusal :=
  if s.disp.attached then
    if s.disp.running then .refused .startWhileRunning
    else if s.stopInProgress then .refused .startDuringStop
    else .next ({ s with disp := { s.disp with stopReq := false, running := true, pc := .check } }.giveBack .void)
  else .refused (.notAttached .disp)

/-- `DISP_STOP`, step 1: the stop request is set and the hold begins (40_display.md R114). -/
def execDispStop (s : State) : Host.Outcome State Fault Refusal :=
  if s.disp.attached then
    if s.disp.running then
      if s.stopInProgress then .refused .stopInProgress
      else .next ({ s with disp := { s.disp with stopReq := true } }.enter .stopHold)
    else .refused .stopWhileNotRunning
  else .refused (.notAttached .disp)

/-- `DISP_STOP`, steps 2 and 3: no step while `disp.running = 1`, then the return (40_display.md R114). -/
def stopHoldTurn (s : State) : State := if s.disp.running then s else s.giveBack .void

/-! ## The refresh loop (40_display.md R115 to R128) -/

/-- `disp.rf_phase <- target`. -/
def State.rfGo (pc : RfPc) (s : State) : State := { s with disp := { s.disp with pc := pc } }

/-- A `Delay_ns(n)` of REFRESH, then `pc`. -/
def State.rfDelay (n : Nat) (pc : RfPc) (s : State) : State :=
  match delayTurn n s.tau s.disp.wake with
  | .starts w => { s with disp := { s.disp with wake := some w } }
  | .held => s
  | .over => { s with disp := { s.disp with wake := none, pc := pc } }

/-- `RF_CHECK` (40_display.md R116). -/
def rfCheck (s : State) : State :=
  if s.disp.stopReq then s.rfGo .exitUnits
  else { s with disp := { s.disp with half := .units, pc := .deselUnits } }

/-- `RF_LOAD`: the one sample of the digit (40_display.md R120). -/
def rfLoad (s : State) : Host.Outcome State Fault Refusal :=
  continueWith (memRead (digitAddr s.disp.half) 1 s) fun d =>
    .next { s with disp := { s.disp with pat := digitToSegments s.cfg d, bit := Fin.last (shiftBits - 1), pc := .bitData } }

/-- The last action of `RF_BIT` ends with the loop control in the same step (40_display.md R121 step 6, R122). -/
def rfBitEnd (s : State) : State :=
  match delayTurn tClkLoNs s.tau s.disp.wake with
  | .starts w => { s with disp := { s.disp with wake := some w } }
  | .held => s
  | .over =>
    if s.disp.bit = 0 then { s with disp := { s.disp with wake := none, pc := .latchRaise } }
    else { s with disp := { s.disp with wake := none, bit := s.disp.bit - 1, pc := .bitData } }

/-- The select line of a digit position. -/
def selPin : Half → Pin
  | .units => .selUnits
  | .tens => .selTens

/-- `RF_SELECT` step 2, the draw (40_display.md R125, R126). -/
def rfDraw (s : State) : State :=
  { s with disp := { s.disp with holdUs := drawFrom holdMinUs holdMaxUs s.choice.draw, pc := .holdWait } }

/-- The control step at the end of a half-cycle (40_display.md R127). -/
def rfHoldEnd (s : State) : State :=
  match s.disp.half with
  | .units => { s with disp := { s.disp with half := .tens, pc := .deselUnits } }
  | .tens => s.rfGo .check

/-- The last step of `RF_EXIT` (40_display.md R128). -/
def rfExitDone (s : State) : State := { s with disp := { s.disp with running := false, pc := .idle } }

/-- One step of REFRESH by its phase and sub-index (40_display.md R116 to R128). In `RF_IDLE` it has no step. -/
def rfStep (s : State) : Host.Outcome State Fault Refusal :=
  match s.disp.pc with
  | .idle => .next s
  | .check => .next (rfCheck s)
  | .deselUnits => .next ((s.pinWrite .selUnits (selOff s.cfg)).rfGo .deselTens)
  | .deselTens => .next ((s.pinWrite .selTens (selOff s.cfg)).rfGo .lowerClk)
  | .lowerClk => .next ((s.pinWrite .clk false).rfGo .lowerLatch)
  | .lowerLatch => .next ((s.pinWrite .latch false).rfGo .lowerWait)
  | .lowerWait => .next (s.rfDelay tSettleNs .load)
  | .load => rfLoad s
  | .bitData => .next ((s.pinWrite .data (s.disp.pat.getLsbD s.disp.bit.val)).rfGo .bitDataWait)
  | .bitDataWait => .next (s.rfDelay tDataNs .bitClkHigh)
  | .bitClkHigh => .next ((s.pinWrite .clk true).rfGo .bitHighWait)
  | .bitHighWait => .next (s.rfDelay tClkHiNs .bitClkLow)
  | .bitClkLow => .next ((s.pinWrite .clk false).rfGo .bitLowWait)
  | .bitLowWait => .next (rfBitEnd s)
  | .latchRaise => .next ((s.pinWrite .latch true).rfGo .latchWait)
  | .latchWait => .next (s.rfDelay tLatchNs .selectOn)
  | .selectOn => .next ((s.pinWrite (selPin s.disp.half) (selOn s.cfg)).rfGo .selectDraw)
  | .selectDraw => .next (rfDraw s)
  | .holdWait => .next (s.rfDelay (1000 * s.disp.holdUs) .holdEnd)
  | .holdEnd => .next (rfHoldEnd s)
  | .exitUnits => .next ((s.pinWrite .selUnits (selOff s.cfg)).rfGo .exitTens)
  | .exitTens => .next ((s.pinWrite .selTens (selOff s.cfg)).rfGo .exitClk)
  | .exitClk => .next ((s.pinWrite .clk false).rfGo .exitLatch)
  | .exitLatch => .next ((s.pinWrite .latch false).rfGo .exitDone)
  | .exitDone => .next (rfExitDone s)

/-- A turn of REFRESH: it exists only while `disp.running = 1` (60_exceptions.md R240); otherwise it has no step (log entry 3). -/
def refreshTurn (s : State) : Host.Outcome State Fault Refusal :=
  if s.disp.running then rfStep s else .next s

end Sys2Proof.Machine
end

