-- ==== Sys2Proof/Machine/EchoMeter.lean ====
section
/-! DEFINITION. EchoRangeMeter: the operation and its phases (42_echo.md R170 to R181). -/

namespace Sys2Proof.Machine

/-- `echo.phase <- target`. -/
def State.ecGo (pc : EcPc) (s : State) : State := { s with echo := { s.echo with pc := pc } }

/-- `ECHO_MEASURE`: admitted only in `EC_IDLE`; the step that admits it is step 1 of `EC_TRIGGER`, `PinWrite(TRIG, 1)`
(42_echo.md R170, R171; log entry 1). -/
def execEchoMeasure (s : State) : Host.Outcome State Fault Refusal :=
  if s.echo.attached then
    if s.echo.pc = .idle then .next (((s.pinWrite .trig true).ecGo .trigDelay).enter .echoMeasure)
    else .refused .echoBusy
  else .refused (.notAttached .echo)

/-- `EC_TRIGGER` step 2, `Delay_us(10)` (42_echo.md R171). -/
def ecTrigDelay (s : State) : State :=
  match delayTurn (1000 * echoTrigUs) s.tau s.echo.wake with
  | .starts w => { s with echo := { s.echo with wake := some w } }
  | .held => s
  | .over => { s with echo := { s.echo with wake := none, pc := .trigLow } }

/-- Where an echo wait leads that ends with the level seen after `d` microseconds (42_echo.md R172, R173). -/
def ecDone (st : EcWait) (d : Nat) (s : State) : State :=
  match st with
  | .high => s.ecGo (.wait .low .a)
  | .low => { s with echo := { s.echo with t := d, pc := .convert } }

/-- The abort on a timeout: no pin is written (42_echo.md R177). -/
def ecAbort (s : State) : State := s.raise .echo (.distance .timeoutError none)

/-- One step of an echo wait; both waits have the same bound, each from its own start (42_echo.md R172, R173). -/
def ecWaitTurn (st : EcWait) (sub : WaitSub) (s : State) : State :=
  match waitTurn st.level echoTimeoutUs (s.pinRead .echo) s.nowUs s.echo.wait sub with
  | .goesOn sub' w => { s with echo := { s.echo with wait := w, pc := .wait st sub' } }
  | .done d w => ecDone st d { s with echo := { s.echo with wait := w } }
  | .timeout w => ecAbort { s with echo := { s.echo with wait := w } }

/-- `EC_CONVERT` (42_echo.md R175). -/
def ecConvert (s : State) : State :=
  { s with echo := { s.echo with dist := distanceOf s.cfg s.echo.t, pc := .idle } }.giveBack
    (.distance .ok (some (distanceOf s.cfg s.echo.t)))

/-- One step of the HOST thread inside of `ECHO_MEASURE`, by phase and sub-index (42_echo.md R171 to R177). -/
def ecTurn (s : State) : State :=
  match s.echo.pc with
  | .idle => s
  | .trigDelay => ecTrigDelay s
  | .trigLow => (s.pinWrite .trig false).ecGo (.wait .high .a)
  | .wait st sub => ecWaitTurn st sub s
  | .convert => ecConvert s

end Sys2Proof.Machine
end

