-- ==== Sys2Proof/Machine/PwmDuty.lean ====
section
/-! DEFINITION. DutyCycleController: its one operation (43_pwm.md R185 to R195). -/

namespace Sys2Proof.Machine

/-- The commit of a percentage in range: `Ok` and the new `last_percent` when it is accepted, `ApplyError` and nothing changed when
it is rejected (43_pwm.md R189 to R191). -/
def commitDuty (percent : Nat) (s : State) : State :=
  if s.choice.accept then
    let s' := s.commit (pwmStateOf percent)
    { s' with pwm := { s'.pwm with lastPercent := percent } }.giveBack (.status .ok)
  else (s.commit (pwmStateOf percent)).raise .pwm (.status .applyError)

/-- `PWM_SET_DUTY p`, one atomic step: the range check comes before any commit (43_pwm.md R186, R187). -/
def execPwmSetDuty (p : Int) (s : State) : Host.Outcome State Fault Refusal :=
  if s.pwm.attached then
    .next (if dutyInRange p then commitDuty p.toNat s else s.raise .pwm (.status .invalidArgument))
  else .refused (.notAttached .pwm)

end Sys2Proof.Machine
end

