-- ==== Sys2Proof/Machine/SingleWire.lean ====
section
/-! DEFINITION. SingleWirePulseDecoder: the operation and its phases (41_singlewire.md R142 to R161). -/

namespace Sys2Proof.Machine

/-- `sw.phase <- target`. -/
def State.swGo (pc : SwPc) (s : State) : State := { s with sw := { s.sw with pc := pc } }

/-- `SW_MEASURE`: admitted only in `SW_IDLE`; the step that admits it is step 1 of `SW_START`, `PinDir(SW, OUT)`
(41_singlewire.md R142, R143; log entry 1). -/
def execSwMeasure (s : State) : Host.Outcome State Fault Refusal :=
  if s.sw.attached then
    if s.sw.pc = .idle then .next (((s.pinDir .sw .output).swGo .startLow).enter .swMeasure)
    else .refused .swBusy
  else .refused (.notAttached .sw)

/-- `SW_START` step 3, `Delay_ms(18)` (41_singlewire.md R143). -/
def swStartDelay (s : State) : State :=
  match delayTurn (1000000 * swStartLowMs) s.tau s.sw.wake with
  | .starts w => { s with sw := { s.sw with wake := some w } }
  | .held => s
  | .over => { s with sw := { s.sw with wake := none, pc := .relHigh } }

/-- Where a wait leads that ends with the level seen after `d` microseconds (41_singlewire.md R145 to R152). -/
def swDone (st : SwWait) (d : Nat) (s : State) : State :=
  match st with
  | .ackLow => s.swGo (.wait .ackHigh .a)
  | .ackHigh => s.swGo (.wait .preambleEnd .a)
  | .preambleEnd => { s with sw := { s.sw with frame := 0, k := 0, pc := .wait .bitFirst .a } }
  | .bitFirst => { s with sw := { s.sw with d1 := d, pc := .wait .bitSecond .a } }
  | .bitSecond =>
    { s with sw := { s.sw with
        d2 := d
        frame := pushBit s.sw.frame (bitOf s.sw.d1 d)
        k := s.sw.k + 1
        pc := if s.sw.k + 1 = swFrameBits then .wait .tail .a else .wait .bitFirst .a } }
  | .tail => s.swGo .restoreDir

/-- The abort on a timeout: no pin action (41_singlewire.md R156). -/
def swAbort (s : State) : State := s.raise .sw (.reading .timeoutError none)

/-- One step of a single-wire wait (41_singlewire.md R140, R145 to R152). -/
def swWaitTurn (st : SwWait) (sub : WaitSub) (s : State) : State :=
  match waitTurn st.level (st.timeoutUs s.cfg) (s.pinRead .sw) s.nowUs s.sw.wait sub with
  | .goesOn sub' w => { s with sw := { s.sw with wait := w, pc := .wait st sub' } }
  | .done d w => swDone st d { s with sw := { s.sw with wait := w } }
  | .timeout w => swAbort { s with sw := { s.sw with wait := w } }

/-- `SW_CHECK`: field split, verdict and return, one atomic step (41_singlewire.md R154, R155). -/
def swCheck (s : State) : State :=
  (s.swGo .idle).giveBack (.reading (checksumStatus (readingOf s.sw.frame)) (some (readingOf s.sw.frame)))

/-- One step of the HOST thread inside of `SW_MEASURE`, by phase and sub-index (41_singlewire.md R143 to R156). -/
def swTurn (s : State) : State :=
  match s.sw.pc with
  | .idle => s
  | .startLow => (s.pinWrite .sw false).swGo .startDelay
  | .startDelay => swStartDelay s
  | .relHigh => (s.pinWrite .sw true).swGo .relIn
  | .relIn => (s.pinDir .sw .input).swGo (.wait .ackLow .a)
  | .wait st sub => swWaitTurn st sub s
  | .restoreDir => (s.pinDir .sw .output).swGo .restoreHigh
  | .restoreHigh => (s.pinWrite .sw true).swGo .check
  | .check => swCheck s

end Sys2Proof.Machine
end

