-- ==== Sys2Proof/Machine/Dispatch.lean ====
section
/-! DEFINITION. The operations of the block, one arm per constructor of Instr (30_encoding.md R90). -/

namespace Sys2Proof.Machine

def exec (i : Instr) (s : State) : Host.Outcome State Fault Refusal :=
  match i with
  | .dispSetDigits t u => Sys2Proof.Machine.execDispSetDigits t u s
  | .dispStart => Sys2Proof.Machine.execDispStart s
  | .dispStop => Sys2Proof.Machine.execDispStop s
  | .swMeasure => Sys2Proof.Machine.execSwMeasure s
  | .echoMeasure => Sys2Proof.Machine.execEchoMeasure s
  | .pwmSetDuty p => Sys2Proof.Machine.execPwmSetDuty p s

end Sys2Proof.Machine
end

