-- ==== Sys2Proof/Machine/Caller.lean ====
section
/-! DEFINITION. The turns of HOST and of ENV: presenting a word, the pseudo-operations of the character interface, the later steps of
an operation, the calls that arrive, and what ENV does on its own (30_encoding.md R90; 44_charif.md R200 to R218;
60_exceptions.md R232, R240, R241). -/

namespace Sys2Proof.Machine

/-- HOST presents a command word (30_encoding.md R90); a word that spells no operation is refused (R98). -/
def present (w : CmdWord) (s : State) : Host.Outcome State Fault Refusal :=
  match decode w with
  | .ok i => exec i s
  | .error e => .refused (.invalidWord e)

/-- A pseudo-operation that ends at once with `r`, on an engine that must exist (70_reset_and_hazards.md R256). -/
def answerAtOnce (e : Engine) (r : Return) (s : State) : Host.Outcome State Fault Refusal :=
  if s.attached e then .next (s.giveBack r) else .refused (.notAttached e)

/-- `DISP_WRITE` (44_charif.md R201 to R206). -/
def issueDispWrite (bs : List Byte) (s : State) : Host.Outcome State Fault Refusal :=
  exec (dispWriteInstr bs) (s.setReply (.wrote (dispWriteCount s.cfg bs)))

/-- `DISP_READ`: zero bytes, nothing touched (44_charif.md R207). -/
def issueDispRead (offset : Nat) (s : State) : Host.Outcome State Fault Refusal :=
  answerAtOnce .disp (readAnswer offset []) s

/-- `SW_READ`: a measurement at offset 0, zero bytes elsewhere (44_charif.md R208, R209). -/
def issueSwRead (offset : Nat) (s : State) : Host.Outcome State Fault Refusal :=
  if offset = 0 then exec .swMeasure (s.setReply (.swRead offset))
  else answerAtOnce .sw (readAnswer offset []) s

/-- `ECHO_READ`: a measurement at offset 0, zero bytes elsewhere (44_charif.md R214, R216). -/
def issueEchoRead (offset : Nat) (s : State) : Host.Outcome State Fault Refusal :=
  if offset = 0 then exec .echoMeasure (s.setReply (.echoRead offset))
  else answerAtOnce .echo (readAnswer offset []) s

/-- `PWM_WRITE`: parse, then `PWM_SET_DUTY` (44_charif.md R210 to R212). -/
def issuePwmWrite (bs : List Byte) (s : State) : Host.Outcome State Fault Refusal :=
  match parsePercent s.cfg.acceptLf bs with
  | some p => exec (.pwmSetDuty p) (s.setReply (.wrote bs.length))
  | none => answerAtOnce .pwm (.error .invalidArgument) s

/-- `PWM_READ`: zero bytes, nothing touched (44_charif.md R213). -/
def issuePwmRead (offset : Nat) (s : State) : Host.Outcome State Fault Refusal :=
  answerAtOnce .pwm (readAnswer offset []) s

/-- The calling thread makes a call: the call's first step. -/
def issue (c : Call) (s : State) : Host.Outcome State Fault Refusal :=
  match c with
  | .word w => present w s
  | .attach e => attach e s
  | .detach e => detach e s
  | .dispWrite bs => issueDispWrite bs s
  | .dispRead offset => issueDispRead offset s
  | .swRead offset => issueSwRead offset s
  | .swWrite _ => .refused (.undefinedWrite .sw)
  | .echoRead offset => issueEchoRead offset s
  | .echoWrite _ => .refused (.undefinedWrite .echo)
  | .pwmWrite bs => issuePwmWrite bs s
  | .pwmRead offset => issuePwmRead offset s

/-- The fetch: thread `k` has taken its first call off its list. -/
def State.popCall (k : Nat) (s : State) : State :=
  { s with threads := s.threads.modify k fun th => { th with calls := th.calls.tail } }

/-- A turn of HOST thread `k`: the next call when it is idle, else the next step of the operation it is inside of. A thread that
does not exist or has nothing to do has no step (log entry 3). -/
def hostTurn (k : Nat) (s : State) : Host.Outcome State Fault Refusal :=
  match s.threads[k]? with
  | none => .next s
  | some th =>
    match th.act with
    | .idle =>
      match th.calls with
      | [] => .next s
      | c :: _ => issue c (s.popCall k)
    | .setDigits u => setDigitsSecond u s
    | .stopHold => .next (stopHoldTurn s)
    | .swMeasure => .next (swTurn s)
    | .echoMeasure => .next (ecTurn s)

/-- What ENV does on its own (60_exceptions.md R232): it may not lower `tau` and may not move the line of an output pin. -/
def envTurn (a : EnvAct) (s : State) : State :=
  match a with
  | .advance ns => { s with tau := s.tau + ns }
  | .setLine p v =>
    if (s.pins.get p).dir = .input then s.setPins (s.pins.set p { s.pins.get p with line := v }) else s

/-- A call reaches thread `k`, behind the calls it has; a thread that does not exist yet comes into being (60_exceptions.md R240). -/
def callArrives (k : Nat) (c : Call) (s : State) : State :=
  if k < s.threads.length then
    { s with threads := s.threads.modify k fun th => { th with calls := th.calls ++ [c] } }
  else { s with threads := s.threads ++ [⟨[c], .idle, .direct, none⟩] }

/-- The turn of an agent (60_exceptions.md R240, R241). -/
def agentTurn (a : Agent) (s : State) : Host.Outcome State Fault Refusal :=
  match a with
  | .host k => hostTurn k s
  | .refresh => refreshTurn s
  | .env e => .next (envTurn e s)
  | .call k c => .next (callArrives k c s)

/-- The choice that governed this step is spent. -/
def State.spend (s : State) : State := { s with script := s.script.tail, tick := s.tick + 1 }

/-- Apply `f` to a next state; a stop stays. -/
def mapNext (f : State → State) (o : Host.Outcome State Fault Refusal) : Host.Outcome State Fault Refusal :=
  match o with
  | .next s => .next (f s)
  | .fault r => .fault r
  | .refused r => .refused r

/-- A new HOST thread with one word to present, and the choice that gives it the next step (log entry 19). -/
def State.presentNext (w : CmdWord) (s : State) : State :=
  { s with
    threads := s.threads ++ [⟨[.word w], .idle, .direct, none⟩]
    script := ⟨.host s.threads.length, 0, true, true⟩ :: s.script }

end Sys2Proof.Machine
end

