-- ==== Sys2Proof/Machine/Step.lean ====
section
/-! DEFINITION. One atomic step of the block: the agent that the next choice names takes its turn (60_exceptions.md R241). -/

namespace Sys2Proof.Machine

/-- One step (60_exceptions.md R241). -/
def step (s : State) : Host.Outcome State Fault Refusal :=
  mapNext State.spend (agentTurn s.choice.agent s)

/-- `s` with the word `w` next to be presented; every row of the opcode table is 40 bits wide, and bits above `nbits` are zero. -/
def State.withFetchWord (s : State) (_nbits w : Nat) : State := s.presentNext (BitVec.ofNat 40 w)

end Sys2Proof.Machine
end

