-- ==== Sys2Proof/Machine/Sensors.lean ====
section
/-! DEFINITION. The sensors as the source describes them, for claims that take them as a premise: scripts of choices in which the line
takes the wanted level some microseconds into each wait (60_exceptions.md R234, R235; 95_test_vectors.md, environment E0). They are
no part of a step. -/

namespace Sys2Proof.Machine

/-- HOST thread `k` takes its next step. -/
def hostMove (k : Nat) : Choice := ⟨.host k, 0, true, true⟩

/-- ENV raises the time by `us` microseconds. -/
def passUs (us : Nat) : Choice := ⟨.env (.advance (1000 * us)), 0, true, true⟩

/-- ENV sets the line of an input pin. -/
def lineGoes (p : Pin) (v : Level) : Choice := ⟨.env (.setLine p v), 0, true, true⟩

/-- Thread `k` polls pin `p` for the level `v`, which the line takes `us` microseconds after the poll began: steps A, B, C. -/
def pollScript (k : Nat) (p : Pin) (v : Level) (us : Nat) : List Choice :=
  [hostMove k, passUs us, lineGoes p v, hostMove k, hostMove k]

/-- One bit slot: the line stays low for the first interval, then high for the second (41_singlewire.md R148, R149). -/
def slotScript (k : Nat) (slot : Nat × Nat) : List Choice :=
  pollScript k .sw true slot.1 ++ pollScript k .sw false slot.2

/-- `SW_START` and `SW_RELEASE`, the call included (41_singlewire.md R143, R144). -/
def swStartScript (k : Nat) : List Choice :=
  [hostMove k, hostMove k, hostMove k, passUs 18000, hostMove k, hostMove k, hostMove k]

/-- A whole measurement: the handshake with these intervals, these bit slots, the last rise, and the last three steps
(41_singlewire.md R142, 60_exceptions.md R234). -/
def swScript (k ackLow ackHigh preamble tail : Nat) (slots : List (Nat × Nat)) : List Choice :=
  swStartScript k ++ pollScript k .sw false ackLow ++ pollScript k .sw true ackHigh ++ pollScript k .sw false preamble
    ++ slots.flatMap (slotScript k) ++ pollScript k .sw true tail ++ [hostMove k, hostMove k, hostMove k]

/-- The frame that bit slots decode to, first slot first (41_singlewire.md R150). -/
def frameOf (slots : List (Nat × Nat)) : BitVec 40 := slots.foldl (fun f d => pushBit f (bitOf d.1 d.2)) 0

/-- The bit slots with which the source's sensor sends a frame: 50 µs, then 26 µs for 0 and 70 µs for 1, bit 39 first (60_exceptions.md
R234, 30_encoding.md R86). -/
def nominalSlots (f : BitVec 40) : List (Nat × Nat) :=
  (List.range 40).map fun i => (50, if f.getLsbD (39 - i) then 70 else 26)

/-- A whole echo measurement: the echo rises `rise` microseconds after the trigger and stays high for `high` (42_echo.md R171 to R175,
60_exceptions.md R235). -/
def echoScript (k rise high : Nat) : List Choice :=
  [hostMove k, hostMove k, passUs 10, hostMove k, hostMove k] ++ pollScript k .echo true rise
    ++ pollScript k .echo false high ++ [hostMove k]

end Sys2Proof.Machine
end

