-- ==== Sys2Proof/Safety.lean ====
section
/-! DEFINITION. What an observer sees of the block, when a state is quiescent, the invariants of a safe state, the distance of the
refresh task from its end, which working registers a step can still read, and the fair runs (40_display.md R130 to R132;
60_exceptions.md R233, R242, R245; 10_state.md R45, R52). -/

namespace Sys2Proof.Machine

/-! ## Observations -/

/-- The pattern a digit position shows: `ext.q` while its select line is on, nothing (dark) while it is off (60_exceptions.md
R233). -/
def State.shown (s : State) (h : Half) : Option Byte :=
  if (s.pins.get (selPin h)).line = selOn s.cfg then some s.ext.q else none

/-- How long the output is high in each period, in nanoseconds, while it is enabled (43_pwm.md R193); nothing is said otherwise. -/
def PwmState.highNs (ps : PwmState) : Option Nat := if ps.enabled then some ps.dutyNs.toNat else none

/-- Quiescent: no HOST operation in progress, the refresh task not running, every phase idle (60_exceptions.md R245). -/
def State.quiescent (s : State) : Bool :=
  (s.threads.all fun th => th.act == .idle) && !s.disp.running && s.disp.pc == .idle && s.sw.pc == .idle && s.echo.pc == .idle

/-- The calling thread of `s` is back with the answer to `r`, and no other thread has moved (60_exceptions.md R223). -/
def State.callerReturns (s t : State) (r : Return) : Prop :=
  t.threads.length = s.threads.length ∧ (∀ j, j ≠ s.caller → t.threads[j]? = s.threads[j]?) ∧
    ∀ th, s.threads[s.caller]? = some th →
      t.threads[s.caller]? = some { th with act := .idle, reply := .direct, ret := some (th.reply.answer r) }

/-- The calling thread of `s` is now inside of the operation `a`, and no other thread has moved. -/
def State.callerEnters (s t : State) (a : Activity) : Prop :=
  t.threads.length = s.threads.length ∧ (∀ j, j ≠ s.caller → t.threads[j]? = s.threads[j]?) ∧
    ∀ th, s.threads[s.caller]? = some th → t.threads[s.caller]? = some { th with act := a }

/-- The next step is a turn of a HOST thread that is inside of the operation `a`. -/
def State.runs (s : State) (a : Activity) : Prop :=
  s.choice.agent = .host s.caller ∧ ∃ th, s.threads[s.caller]? = some th ∧ th.act = a

/-- The next step is a turn of an idle HOST thread whose next call is `c`. -/
def State.calls (s : State) (c : Call) : Prop :=
  s.choice.agent = .host s.caller ∧ ∃ th, s.threads[s.caller]? = some th ∧ th.act = .idle ∧ th.calls.head? = some c

/-! ## Invariants -/

/-- The pin is an output and its line follows its latch (10_state.md R21). -/
def PinHandle.drives (h : PinHandle) : Prop := h.dir = .output ∧ h.line = h.out

/-- Both digit-select lines are off (30_encoding.md R85). -/
def State.dark (s : State) : Prop :=
  s.pins.selUnits.line = selOff s.cfg ∧ s.pins.selTens.line = selOff s.cfg

/-- The display is dark and its clock and latch are low, with no pulse since the latch fell (40_display.md R118, R130 (e)). -/
def State.restLines (s : State) : Prop :=
  s.dark ∧ s.pins.clk.line = false ∧ s.pins.latch.line = false ∧ s.ext.pulses = 0

/-- The low `n` bits of the external register are the top `n` bits of the pattern (30_encoding.md R84, 60_exceptions.md R233). -/
def State.shifted (s : State) (n : Nat) : Prop :=
  ∀ i, i < n → s.ext.sr.getLsbD i = s.disp.pat.getLsbD (8 - n + i)

/-- The clock is low, and if the latch is low no pulse has come since it fell. -/
def State.betweenShifts (s : State) : Prop :=
  s.pins.clk.line = false ∧ (s.pins.latch.line = false → s.ext.pulses = 0)

/-- A byte is being shifted: dark, latch low, clock at `clk`, `n` bits clocked in so far (30_encoding.md R83). -/
def State.shifting (s : State) (clk : Level) (n : Nat) : Prop :=
  s.dark ∧ s.pins.latch.line = false ∧ s.pins.clk.line = clk ∧ s.ext.pulses = n ∧ s.shifted n

/-- The byte is in the outputs: latch high, clock low, the last data bit still on the line (40_display.md R123, R124, R131). -/
def State.latched (s : State) : Prop :=
  s.pins.latch.line = true ∧ s.pins.clk.line = false ∧ s.ext.q = s.disp.pat
    ∧ s.pins.data.line = s.disp.pat.getLsbD 0

/-- Exactly the digit of this half-cycle is on (40_display.md R125). -/
def State.showsHalf (s : State) : Prop :=
  match s.disp.half with
  | .units => s.pins.selUnits.line = selOn s.cfg ∧ s.pins.selTens.line = selOff s.cfg
  | .tens => s.pins.selTens.line = selOn s.cfg ∧ s.pins.selUnits.line = selOff s.cfg

/-- What holds of the display lines at each step of the refresh loop (40_display.md R117 to R128). -/
def State.atRefreshStep (s : State) : Prop :=
  match s.disp.pc with
  | .idle => s.restLines
  | .check => s.betweenShifts ∧ s.pins.selUnits.line = selOff s.cfg
  | .deselUnits => s.betweenShifts
  | .deselTens => s.betweenShifts ∧ s.pins.selUnits.line = selOff s.cfg
  | .lowerClk => s.betweenShifts ∧ s.dark
  | .lowerLatch => s.betweenShifts ∧ s.dark
  | .lowerWait => s.restLines
  | .load => s.restLines
  | .bitData => s.shifting false (7 - s.disp.bit.val)
  | .bitDataWait => s.shifting false (7 - s.disp.bit.val) ∧ s.pins.data.line = s.disp.pat.getLsbD s.disp.bit.val
  | .bitClkHigh => s.shifting false (7 - s.disp.bit.val) ∧ s.pins.data.line = s.disp.pat.getLsbD s.disp.bit.val
  | .bitHighWait => s.shifting true (8 - s.disp.bit.val) ∧ s.pins.data.line = s.disp.pat.getLsbD s.disp.bit.val
  | .bitClkLow => s.shifting true (8 - s.disp.bit.val) ∧ s.pins.data.line = s.disp.pat.getLsbD s.disp.bit.val
  | .bitLowWait => s.shifting false (8 - s.disp.bit.val) ∧ s.pins.data.line = s.disp.pat.getLsbD s.disp.bit.val
  | .latchRaise => s.shifting false 8 ∧ s.pins.data.line = s.disp.pat.getLsbD 0
  | .latchWait => s.latched ∧ s.dark
  | .selectOn => s.latched ∧ s.dark
  | .selectDraw => s.latched ∧ s.showsHalf
  | .holdWait => s.latched ∧ s.showsHalf ∧ holdMinUs ≤ s.disp.holdUs ∧ s.disp.holdUs ≤ holdMaxUs
  | .holdEnd => s.latched ∧ s.showsHalf ∧ holdMinUs ≤ s.disp.holdUs ∧ s.disp.holdUs ≤ holdMaxUs
  | .exitUnits => s.betweenShifts ∧ s.pins.selUnits.line = selOff s.cfg
  | .exitTens => s.betweenShifts ∧ s.pins.selUnits.line = selOff s.cfg
  | .exitClk => s.betweenShifts ∧ s.dark
  | .exitLatch => s.betweenShifts ∧ s.dark
  | .exitDone => s.restLines

/-- The steps of the refresh loop at which a delay can be in progress (40_display.md R118, R121, R123, R126). -/
def RfPc.isDelay : RfPc → Bool
  | .lowerWait | .bitDataWait | .bitHighWait | .bitLowWait | .latchWait | .holdWait => true
  | _ => false

/-- The invariant of the display engine, its pins and the register behind them (40_display.md R130, R131). -/
structure State.DispInv (s : State) : Prop where
  driven : s.pins.data.drives ∧ s.pins.clk.drives ∧ s.pins.latch.drives ∧ s.pins.selUnits.drives ∧ s.pins.selTens.drives
  notBoth : ¬ (s.pins.selUnits.line = selOn s.cfg ∧ s.pins.selTens.line = selOn s.cfg)
  lit : (s.pins.selUnits.line = selOn s.cfg ∨ s.pins.selTens.line = selOn s.cfg) → s.latched
  atStep : s.atRefreshStep
  running : s.disp.running = true ↔ s.disp.pc ≠ .idle
  exists_ : s.disp.running = true → s.disp.attached = true
  delay : s.disp.wake ≠ none → s.disp.pc.isDelay = true

/-- The local registers of a wait in progress: the start time is not in the future (41_singlewire.md R141 (a)). -/
def waitLocalsOk (now : Nat) (w : WaitLocals) : WaitSub → Prop
  | .a => True
  | .b => w.t0 ≤ now
  | .c => w.t0 ≤ now

/-- The bit counter in each wait of a measurement, and the bits a frame can hold by then (41_singlewire.md R146 to R152). -/
def swCountOk (x : Sw) : SwWait → Prop
  | .ackLow => True
  | .ackHigh => True
  | .preambleEnd => True
  | .bitFirst => x.k < swFrameBits ∧ x.frame.toNat < 2 ^ x.k
  | .bitSecond => x.k < swFrameBits ∧ x.frame.toNat < 2 ^ x.k
  | .tail => x.k = swFrameBits

/-- What holds of the line and the counters at each step of a single-wire measurement (41_singlewire.md R143 to R156). -/
def State.atSwStep (s : State) : Prop :=
  match s.sw.pc with
  | .idle => s.pins.sw.out = true
  | .startLow => s.pins.sw.dir = .output
  | .startDelay => s.pins.sw.dir = .output ∧ s.pins.sw.out = false
  | .relHigh => s.pins.sw.dir = .output ∧ s.pins.sw.out = false
  | .relIn => s.pins.sw.dir = .output ∧ s.pins.sw.out = true
  | .wait st sub =>
    s.pins.sw.dir = .input ∧ s.pins.sw.out = true ∧ swCountOk s.sw st ∧ waitLocalsOk s.nowUs s.sw.wait sub
  | .restoreDir => s.pins.sw.dir = .input ∧ s.pins.sw.out = true ∧ s.sw.k = swFrameBits
  | .restoreHigh => s.pins.sw.dir = .output ∧ s.pins.sw.out = true ∧ s.sw.k = swFrameBits
  | .check => s.pins.sw.dir = .output ∧ s.pins.sw.out = true ∧ s.sw.k = swFrameBits

/-- The invariant of the single-wire engine and its pin. -/
structure State.SwInv (s : State) : Prop where
  driven : s.pins.sw.dir = .output → s.pins.sw.line = s.pins.sw.out
  atStep : s.atSwStep
  exists_ : s.sw.pc ≠ .idle → s.sw.attached = true
  delay : s.sw.wake ≠ none → s.sw.pc = .startDelay

/-- The trigger is high between step 1 and step 3 of `EC_TRIGGER` and at no other time (42_echo.md R171). -/
def EcPc.trigHigh : EcPc → Bool
  | .trigDelay | .trigLow => true
  | _ => false

/-- The invariant of the echo engine and its pins (42_echo.md R171 to R177). -/
structure State.EchoInv (s : State) : Prop where
  driven : s.pins.trig.drives
  input : s.pins.echo.dir = .input
  trigger : s.pins.trig.out = s.echo.pc.trigHigh
  locals : ∀ st sub, s.echo.pc = .wait st sub → waitLocalsOk s.nowUs s.echo.wait sub
  exists_ : s.echo.pc ≠ .idle → s.echo.attached = true
  delay : s.echo.wake ≠ none → s.echo.pc = .trigDelay

/-- The invariant of the duty-cycle engine: what the collaborator holds is the PwmState of the last percentage (10_state.md R44,
R45). -/
structure State.PwmInv (s : State) : Prop where
  percent : s.pwm.lastPercent ≤ 100
  period : s.pwm.out.periodNs.toNat = 1000000
  duty : s.pwm.out.dutyNs.toNat = 10000 * s.pwm.lastPercent
  enabled : s.pwm.out.enabled = true

/-- The thread is inside of `DISP_SET_DIGITS`. -/
def Thread.settingDigits (th : Thread) : Bool :=
  match th.act with
  | .setDigits _ => true
  | _ => false

/-- The invariant of the callers: at most one operation at a time per engine (60_exceptions.md R243), a measurement in progress is some
thread's, and a task that a caller waits for has its stop requested (40_display.md R114). -/
structure State.CallersInv (s : State) : Prop where
  measuringSw : (s.threads.countP fun th => th.act == .swMeasure) = if s.sw.pc = .idle then 0 else 1
  measuringEcho : (s.threads.countP fun th => th.act == .echoMeasure) = if s.echo.pc = .idle then 0 else 1
  stopping : (s.threads.countP fun th => th.act == .stopHold) ≤ 1
  stopAsked : s.stopInProgress = true → s.disp.running = true → s.disp.stopReq = true
  idleDirect : ∀ th ∈ s.threads, th.act = .idle → th.reply = .direct
  stoppingExists : s.stopInProgress = true → s.disp.attached = true
  settingExists : s.setInProgress = true → s.disp.attached = true

/-- The invariant of the whole block. -/
structure State.Inv (s : State) : Prop where
  params : s.cfg.wf = true
  memory : Memory.wf s.mem = true
  disp : s.DispInv
  sw : s.SwInv
  echo : s.EchoInv
  pwm : s.PwmInv
  callers : s.CallersInv

/-! ## The end of the refresh task (40_display.md R132) -/

/-- Turns left in a delay: one to begin it, one to complete it. -/
def delayLeft : Option Nat → Nat
  | none => 2
  | some _ => 1

/-- Turns left in the current half-cycle. -/
def halfLeft (d : Disp) : Nat :=
  match d.pc with
  | .deselUnits => 87
  | .deselTens => 86
  | .lowerClk => 85
  | .lowerLatch => 84
  | .lowerWait => 81 + delayLeft d.wake
  | .load => 81
  | .bitData => 8 + 9 * d.bit.val + 9
  | .bitDataWait => 8 + 9 * d.bit.val + 6 + delayLeft d.wake
  | .bitClkHigh => 8 + 9 * d.bit.val + 6
  | .bitHighWait => 8 + 9 * d.bit.val + 3 + delayLeft d.wake
  | .bitClkLow => 8 + 9 * d.bit.val + 3
  | .bitLowWait => 8 + 9 * d.bit.val + delayLeft d.wake
  | .latchRaise => 8
  | .latchWait => 5 + delayLeft d.wake
  | .selectOn => 5
  | .selectDraw => 4
  | .holdWait => 1 + delayLeft d.wake
  | .holdEnd => 1
  | _ => 0

/-- Turns of REFRESH left until the task has exited, once the stop is requested: the rest of the cycle in progress, the test, and
the five steps of `RF_EXIT` (40_display.md R132). -/
def refreshLeft (d : Disp) : Nat :=
  match d.pc with
  | .idle => 0
  | .exitDone => 1
  | .exitLatch => 2
  | .exitClk => 3
  | .exitTens => 4
  | .exitUnits => 5
  | .check => 6
  | _ => halfLeft d + (match d.half with
      | .units => 87
      | .tens => 0) + 6

/-- A delay with this deadline is not over. -/
def State.heldBy (s : State) (wake : Option Nat) : Bool :=
  match wake with
  | some w => decide (s.tau < w)
  | none => false

/-- REFRESH is in a delay that is not over. -/
def State.refreshHeld (s : State) : Bool := s.heldBy s.disp.wake

/-- The next step is a turn of REFRESH that is not held by a delay. -/
def State.refreshMoves (s : State) : Bool := s.choice.agent == .refresh && s.disp.running && !s.refreshHeld

/-- How many of the next `n` steps are turns of REFRESH that no delay holds. -/
def refreshTurnsIn : Nat → State → Nat
  | 0, _ => 0
  | n + 1, s =>
    match step s with
    | .next s' => (if s.refreshMoves then 1 else 0) + refreshTurnsIn n s'
    | .fault _ => 0
    | .refused _ => 0

/-! ## Working registers that no step can read any more (10_state.md R52, 93_implementation_defined.md U15) -/

/-- The phases in which `disp.half` has been written and can still be read. -/
def RfPc.readsHalf (pc : RfPc) : Bool :=
  match pc.phase with
  | .rfIdle | .rfCheck | .rfExit => false
  | .rfDesel | .rfLower | .rfLoad | .rfBit | .rfLatch | .rfSelect | .rfHold => true

/-- `disp` with every working register that will be written before it is read set back to its reset value. -/
def Disp.eraseDead (d : Disp) : Disp :=
  { d with
    half := if d.pc.readsHalf then d.half else .units
    pat := if d.pc.phase = .rfBit then d.pat else 0
    bit := if d.pc.phase = .rfBit then d.bit else 0
    holdUs := if d.pc = .holdWait then d.holdUs else 0 }

/-- The local registers of a wait, those that will be written before they are read set back. -/
def eraseDeadWait (w : WaitLocals) : WaitSub → WaitLocals
  | .a => ⟨0, false, 0⟩
  | .b => ⟨w.t0, false, 0⟩
  | .c => ⟨w.t0, w.l, 0⟩

/-- `sw` with every dead working register set back to its reset value. -/
def Sw.eraseDead (x : Sw) : Sw :=
  match x.pc with
  | .idle | .startLow | .startDelay | .relHigh | .relIn =>
    { x with frame := 0, k := 0, d1 := 0, d2 := 0, wait := ⟨0, false, 0⟩ }
  | .wait .bitFirst sub => { x with d1 := 0, d2 := 0, wait := eraseDeadWait x.wait sub }
  | .wait .bitSecond sub => { x with d2 := 0, wait := eraseDeadWait x.wait sub }
  | .wait .tail sub => { x with k := 0, d1 := 0, d2 := 0, wait := eraseDeadWait x.wait sub }
  | .wait .ackLow sub | .wait .ackHigh sub | .wait .preambleEnd sub =>
    { x with frame := 0, k := 0, d1 := 0, d2 := 0, wait := eraseDeadWait x.wait sub }
  | .restoreDir | .restoreHigh | .check => { x with k := 0, d1 := 0, d2 := 0, wait := ⟨0, false, 0⟩ }

/-- `echo` with every dead working register set back to its reset value. -/
def Echo.eraseDead (x : Echo) : Echo :=
  match x.pc with
  | .idle | .trigDelay | .trigLow => { x with t := 0, dist := 0, wait := ⟨0, false, 0⟩ }
  | .wait _ sub => { x with t := 0, dist := 0, wait := eraseDeadWait x.wait sub }
  | .convert => { x with dist := 0, wait := ⟨0, false, 0⟩ }

/-- The state with every dead working register set back to its reset value, and with them the output latch of `ECHO`, which R52 marks
"no value" too and which nothing ever drives. -/
def State.eraseDead (s : State) : State :=
  { s with
    disp := s.disp.eraseDead
    sw := s.sw.eraseDead
    echo := s.echo.eraseDead
    pins := { s.pins with echo := { s.pins.echo with out := false } } }

/-! ## Fair runs (60_exceptions.md R242) -/

/-- The agent has a step: REFRESH while its task runs and no delay holds it, a thread with a call to make or an operation that nothing
holds (60_exceptions.md R231, R240; 40_display.md R114). What ENV does and calls that arrive are nobody's duty. -/
def State.hasStep (s : State) : Agent → Bool
  | .refresh => s.disp.running && !s.refreshHeld
  | .host k =>
    match s.threads[k]? with
    | none => false
    | some th =>
      match th.act with
      | .idle => !th.calls.isEmpty
      | .setDigits _ => true
      | .stopHold => !s.disp.running
      | .swMeasure => !s.heldBy s.sw.wake
      | .echoMeasure => !s.heldBy s.echo.wake
  | .env _ => false
  | .call _ _ => false

/-- The state with `c` as the choice of its next step. -/
def State.given (s : State) (c : Choice) : State := { s with script := c :: s.script }

/-- A run without end, `choices n` governing its step `n`, under the premise of R242: an agent that goes on having a step takes one, and
time grows beyond every bound (60_exceptions.md R230, R242). -/
structure FairRun (run : Nat → State) (choices : Nat → Choice) : Prop where
  moves : ∀ n, step ((run n).given (choices n)) = .next (run (n + 1))
  fair : ∀ (a : Agent) (n : Nat), ∃ m, n ≤ m ∧ ((choices m).agent = a ∨ (run m).hasStep a = false)
  timeGrows : ∀ bound, ∃ n, bound < (run n).tau

end Sys2Proof.Machine
end

