-- ==== Sys2Proof/Certificates/Slice0/Obligations.lean ====
section
/-! DEFINITION. The statements for the provers. Each docstring names the rule of spec/ it formalises; a clause that rests on a choice of
the model names the log entry. -/

open Sys2Proof Sys2Proof.Machine

/-! ## Words (30_encoding.md) -/

/-- Every well-formed instruction is read back from its own word (R91 to R97). -/
def Obligations.DecodeOfEncode : Prop :=
  ∀ i : Instr, i.wf = true → decode (encode i) = .ok i

/-- Every word that decodes is the word of the instruction it decodes to, and that instruction is well formed: no two words spell one
instruction (R91 to R97). -/
def Obligations.EncodeOfDecode : Prop :=
  ∀ (w : CmdWord) (i : Instr), decode w = .ok i → i.wf = true ∧ encode i = w

/-- R98: the words that spell no operation are exactly those named there, and presenting one is refused, so no state changes. -/
def Obligations.InvalidWordsRefused : Prop :=
  ∀ w : CmdWord,
    ((∃ e, decode w = .error e) ↔
      ((opField w).toNat ∉ [0x10, 0x11, 0x12, 0x20, 0x30, 0x40]
        ∨ (opField w).toNat = 0x10 ∧ zeroField w ≠ 0
        ∨ (opField w).toNat ∈ [0x11, 0x12, 0x20, 0x30] ∧ argField w ≠ 0)) ∧
    ∀ (s : State) (e : DecodeError), decode w = .error e → present w s = .refused (.invalidWord e)

/-- Words written out from R91 to R96 decode to their instructions (95_test_vectors.md T-X1, T-X2). -/
def Obligations.WrittenWordsDecode : Prop :=
  decode 0x1000000402 = .ok (.dispSetDigits 4 2) ∧ decode 0x10000011DA = .ok (.dispSetDigits 17 218) ∧
  decode 0x1100000000 = .ok .dispStart ∧ decode 0x1200000000 = .ok .dispStop ∧
  decode 0x2000000000 = .ok .swMeasure ∧ decode 0x3000000000 = .ok .echoMeasure ∧
  decode 0x400000004B = .ok (.pwmSetDuty 75) ∧ decode 0x40FFFFFFFF = .ok (.pwmSetDuty (-1)) ∧
  decode 0x1000010402 = .error .nonzeroField ∧ decode 0x1300000000 = .error .unknownOp

/-- R90, R241: when the thread that has the next step is idle and its next call is a word that decodes to `i`, the step is `exec i` with
that call taken off the thread's list, and around it only the spent choice (log entry 2). -/
def Obligations.StepRunsPresentedWord : Prop :=
  ∀ (s : State) (w : CmdWord) (i : Instr), s.calls (.word w) → decode w = .ok i →
    step s = mapNext State.spend (exec i (s.popCall s.caller))

/-! ## DisplayState memory (20_memory.md) -/

/-- R61, R71: a byte written at address 0 or 1 is read back, the other byte and all other state stay, the cells stay canonical; every
other address and every other width is refused, reading and writing. -/
def Obligations.MemoryAccess : Prop :=
  ∀ (s : State) (a n v : Nat), Memory.wf s.mem = true →
    (a < 2 ∧ n = 1 → ∃ t, memWrite a n v s = .ok t ∧ memRead a n t = .ok (BitVec.ofNat 8 v) ∧
      (∀ b, b ≠ a → Memory.read t.mem b = Memory.read s.mem b) ∧ Memory.wf t.mem = true ∧
      t = { s with mem := t.mem }) ∧
    (¬ (a < 2 ∧ n = 1) → memWrite a n v s = .error .memoryAccess ∧ memRead a n s = .error .memoryAccess)

/-! ## The display operations (40_display.md) -/

/-- R110: the lookup, for every byte and every table, and the rule's two examples with the default table. -/
def Obligations.DigitLookup : Prop :=
  (∀ (c : Config) (d : Byte),
    (∀ i : Fin 10, d.toNat = i.val → digitToSegments c d = c.segTable[i.val]) ∧
    (10 ≤ d.toNat → digitToSegments c d = c.segTable[10])) ∧
  digitToSegments defaultConfig 5 = 0x6D ∧ digitToSegments defaultConfig 10 = 0x79

/-- R81 (a) to (c): of any admitted table, a digit never sets the decimal point and never shows the error glyph; the default table of R82
is admitted, with the default parameters. -/
def Obligations.SegmentTableAdmitted : Prop :=
  (∀ (c : Config) (d e : Byte), c.wf = true → d.toNat ≤ 9 → 10 ≤ e.toNat →
    (digitToSegments c d).getLsbD 7 = false ∧ digitToSegments c d ≠ digitToSegments c e) ∧
  defaultConfig.wf = true

/-- R112 step 1: `DISP_SET_DIGITS t, u` completes its first step whenever the display is attached: the tens byte becomes `t`, every other
byte and all else stays, and the caller is inside of the operation with the units byte to write. -/
def Obligations.SetDigitsWritesTens : Prop :=
  ∀ (s : State) (t u : Byte), s.disp.attached = true → Memory.wf s.mem = true →
    ∃ s', exec (.dispSetDigits t u) s = .next s' ∧
      s'.digitTens = t ∧ (∀ a, a ≠ 0 → Memory.read s'.mem a = Memory.read s.mem a) ∧
      s.callerEnters s' (.setDigits u) ∧ s' = { s with mem := s'.mem, threads := s'.threads }

/-- R112 step 2: the caller's next step writes the units byte and returns nothing; every other byte and all else stays. -/
def Obligations.SetDigitsWritesUnits : Prop :=
  ∀ (s : State) (u : Byte), s.runs (.setDigits u) → Memory.wf s.mem = true →
    ∃ s', step s = .next s' ∧
      s'.digitUnits = u ∧ (∀ a, a ≠ 1 → Memory.read s'.mem a = Memory.read s.mem a) ∧
      s.callerReturns s' .void ∧
      s' = { s with mem := s'.mem, threads := s'.threads, script := s.script.tail, tick := s.tick + 1 }

/-- R113: `DISP_START` completes whenever the display is attached and not running and no `DISP_STOP` is in progress, whatever the stop
request was, and changes nothing but the three registers and its caller; while the display is running it is refused, and so it is while a
`DISP_STOP` is in progress (R243 with D35; log entry 27). -/
def Obligations.StartLaunchesRefresh : Prop :=
  ∀ s : State, s.disp.attached = true →
    (s.disp.running = false → s.stopInProgress = false →
      ∃ s', exec .dispStart s = .next s' ∧
        s'.disp = { s.disp with stopReq := false, running := true, pc := .check } ∧
        (∀ a, Memory.read s'.mem a = Memory.read s.mem a) ∧
        s.callerReturns s' .void ∧ s' = { s with disp := s'.disp, threads := s'.threads }) ∧
    (s.disp.running = true → exec .dispStart s = .refused .startWhileRunning) ∧
    (s.disp.running = false → s.stopInProgress = true → exec .dispStart s = .refused .startDuringStop)

/-- R114 step 1: `DISP_STOP` is admitted whenever the display is attached and running and no other stop is in progress; it sets the stop
request, its caller is held, and nothing else changes. -/
def Obligations.StopRequestsAndHolds : Prop :=
  ∀ s : State, s.disp.attached = true → s.disp.running = true → s.stopInProgress = false →
    ∃ s', exec .dispStop s = .next s' ∧
      s'.disp = { s.disp with stopReq := true } ∧ (∀ a, Memory.read s'.mem a = Memory.read s.mem a) ∧
      s.callerEnters s' .stopHold ∧ s' = { s with disp := s'.disp, threads := s'.threads }

/-- R114 steps 2 and 3: while `disp.running = 1` a turn of the held caller changes nothing; once it is 0 the caller returns, and then the
phase is idle, both select lines are off and clock and latch are low. -/
def Obligations.StopReturnsWhenExited : Prop :=
  ∀ s : State, s.Inv → s.runs .stopHold →
    (s.disp.running = true → step s = .next s.spend) ∧
    (s.disp.running = false → ∃ s', step s = .next s' ∧ s.callerReturns s' .void ∧ s'.disp.running = false ∧
      s'.disp.pc = .idle ∧ s'.dark ∧ s'.pins.clk.line = false ∧ s'.pins.latch.line = false ∧
      s' = { s with threads := s'.threads, script := s.script.tail, tick := s.tick + 1 })

/-! ## The refresh loop (40_display.md) -/

/-- R116: `RF_CHECK` goes to `RF_EXIT` when the stop is requested and else opens a cycle with the units digit; no other step of the loop
depends on the stop request. -/
def Obligations.RefreshTestsStop : Prop :=
  ∀ s : State, s.disp.running = true →
    (s.disp.pc = .check → s.disp.stopReq = true →
      refreshTurn s = .next { s with disp := { s.disp with pc := .exitUnits } }) ∧
    (s.disp.pc = .check → s.disp.stopReq = false →
      refreshTurn s = .next { s with disp := { s.disp with half := .units, pc := .deselUnits } }) ∧
    (s.disp.pc ≠ .check → ∀ b : Bool,
      refreshTurn { s with disp := { s.disp with stopReq := b } } =
        mapNext (fun t => { t with disp := { t.disp with stopReq := b } }) (refreshTurn s))

/-- R117, R118, R128: the steps that darken the display and lower its clock and latch do so, on lines that follow their latches, and
touch no other pin and no memory; the delay after lowering them lasts at least 100 ns (R118, R260): it begins with the deadline 100 ns
ahead and the loop goes on only at a time not below its deadline. -/
def Obligations.RefreshControlLines : Prop :=
  ∀ s : State, s.Inv → s.disp.running = true → ∀ t, refreshTurn s = .next t →
    (s.disp.pc = .deselUnits ∨ s.disp.pc = .exitUnits →
      t.pins.selUnits.line = selOff s.cfg ∧ t.pins = { s.pins with selUnits := t.pins.selUnits }) ∧
    (s.disp.pc = .deselTens ∨ s.disp.pc = .exitTens →
      t.pins.selTens.line = selOff s.cfg ∧ t.pins = { s.pins with selTens := t.pins.selTens }) ∧
    (s.disp.pc = .lowerClk ∨ s.disp.pc = .exitClk →
      t.pins.clk.line = false ∧ t.pins = { s.pins with clk := t.pins.clk }) ∧
    (s.disp.pc = .lowerLatch ∨ s.disp.pc = .exitLatch →
      t.pins.latch.line = false ∧ t.pins = { s.pins with latch := t.pins.latch }) ∧
    (s.disp.pc = .exitDone → t.disp.running = false ∧ t.disp.pc = .idle ∧ t.pins = s.pins) ∧
    (s.disp.pc = .lowerWait →
      (s.disp.wake = none → t = { s with disp := { s.disp with wake := some (s.tau + 100) } }) ∧
      (∀ w, s.disp.wake = some w → s.tau < w → t = s) ∧
      (∀ w, s.disp.wake = some w → w ≤ s.tau → t = { s with disp := { s.disp with wake := none, pc := .load } })) ∧
    ∀ a, Memory.read t.mem a = Memory.read s.mem a

/-- R120: `RF_LOAD` samples `DS[1]` for the units and `DS[0]` for the tens and starts with bit 7; no other step of any agent changes the
pattern. -/
def Obligations.RefreshSamplesDigit : Prop :=
  (∀ s : State, s.disp.running = true → s.disp.pc = .load →
    refreshTurn s = .next { s with disp := { s.disp with
      pat := digitToSegments s.cfg (match s.disp.half with
        | .units => s.digitUnits
        | .tens => s.digitTens), bit := 7, pc := .bitData } }) ∧
  (∀ s t : State, step s = .next t → t.disp.pat ≠ s.disp.pat →
    s.choice.agent = .refresh ∧ s.disp.pc = .load)

/-- R121, R122, R123: each bit is driven on the data line, clocked by one pulse, and after the last delay the bit index goes down or, at
bit 0, the loop goes to `RF_LATCH`, which raises the latch. The delays after the data, the rising clock, the falling clock and the rising
latch last at least 100 ns each (R260): each begins with the deadline 100 ns ahead, and until its deadline is reached nothing changes. -/
def Obligations.RefreshShiftsBits : Prop :=
  ∀ s : State, s.Inv → s.disp.running = true → ∀ t, refreshTurn s = .next t →
    (s.disp.pc = .bitData →
      t.pins.data.line = s.disp.pat.getLsbD s.disp.bit.val ∧ t.disp.pc = .bitDataWait ∧
        t.pins = { s.pins with data := t.pins.data }) ∧
    (s.disp.pc = .bitClkHigh →
      t.pins.clk.line = true ∧ t.disp.pc = .bitHighWait ∧ t.pins = { s.pins with clk := t.pins.clk }) ∧
    (s.disp.pc = .bitClkLow →
      t.pins.clk.line = false ∧ t.disp.pc = .bitLowWait ∧ t.pins = { s.pins with clk := t.pins.clk }) ∧
    (s.disp.pc = .latchRaise →
      t.pins.latch.line = true ∧ t.disp.pc = .latchWait ∧ t.pins = { s.pins with latch := t.pins.latch }) ∧
    (s.disp.pc ∈ [RfPc.bitDataWait, .bitHighWait, .bitLowWait, .latchWait] →
      (s.disp.wake = none → t = { s with disp := { s.disp with wake := some (s.tau + 100) } }) ∧
      (∀ w, s.disp.wake = some w → s.tau < w → t = s) ∧
      (∀ w, s.disp.wake = some w → w ≤ s.tau → t.pins = s.pins ∧ t.disp.wake = none ∧
        (s.disp.pc = .bitDataWait → t.disp.pc = .bitClkHigh ∧ t.disp.bit = s.disp.bit) ∧
        (s.disp.pc = .bitHighWait → t.disp.pc = .bitClkLow ∧ t.disp.bit = s.disp.bit) ∧
        (s.disp.pc = .bitLowWait → s.disp.bit.val = 0 ∧ t.disp.pc = .latchRaise ∨
          s.disp.bit.val = t.disp.bit.val + 1 ∧ t.disp.pc = .bitData) ∧
        (s.disp.pc = .latchWait → t.disp.pc = .selectOn)))

/-- R125, R126, R127: the digit of the half-cycle is selected, its hold is the draw of the step from 250 to 350, by which any value of the
range can come up and no other (the number behind the draw is free: log entries 2, 5), the hold lasts at least that many microseconds, and after it come the tens half-cycle or the stop test. -/
def Obligations.RefreshHoldsDigit : Prop :=
  (∀ s : State, s.Inv → s.disp.running = true → ∀ t, refreshTurn s = .next t →
    (s.disp.pc = .selectOn → t.showsHalf ∧ t.disp.half = s.disp.half ∧ t.disp.pc = .selectDraw) ∧
    (s.disp.pc = .selectDraw → t.disp.holdUs = drawFrom holdMinUs holdMaxUs s.choice.draw ∧ 250 ≤ t.disp.holdUs ∧ t.disp.holdUs ≤ 350 ∧ t.disp.pc = .holdWait ∧ t.pins = s.pins) ∧
    (s.disp.pc = .holdWait → s.disp.wake = none → t.disp.wake = some (s.tau + 1000 * s.disp.holdUs)) ∧
    (s.disp.pc = .holdWait → t.disp.pc = .holdEnd → ∃ w, s.disp.wake = some w ∧ w ≤ s.tau) ∧
    (s.disp.pc = .holdEnd → s.disp.half = .units → t.disp.half = .tens ∧ t.disp.pc = .deselUnits) ∧
    (s.disp.pc = .holdEnd → s.disp.half = .tens → t.disp.pc = .check)) ∧
  ∀ h, 250 ≤ h → h ≤ 350 → ∃ raw, drawFrom holdMinUs holdMaxUs raw = h

/-- R130, R131: the invariant of the display, its pins and the register behind them is kept by every step of every agent. -/
def Obligations.DisplayInvKept : Prop :=
  ∀ s t : State, s.DispInv → step s = .next t → t.DispInv

/-- R130 (b), (c): whenever `CLK` rises both select lines are off and `LATCH` is 0; whenever `LATCH` rises `CLK` is 0 and exactly eight
clock pulses have come since it fell (the count of pulses is the model's observer, log entry 15). -/
def Obligations.ClockAndLatchDiscipline : Prop :=
  ∀ s t : State, s.Inv → step s = .next t →
    (s.pins.clk.line = false → t.pins.clk.line = true → t.dark ∧ t.pins.latch.line = false) ∧
    (s.pins.latch.line = false → t.pins.latch.line = true → t.pins.clk.line = false ∧ s.ext.pulses = 8)

/-- R131: during a hold the selected digit shows the pattern of this half-cycle and the other digit is dark, under the register of R233
(log entry 14). -/
def Obligations.HoldShowsPattern : Prop :=
  ∀ s : State, s.Inv → s.disp.pc.phase = .rfHold →
    (s.disp.half = .units → s.shown .units = some s.disp.pat ∧ s.shown .tens = none) ∧
    (s.disp.half = .tens → s.shown .tens = some s.disp.pat ∧ s.shown .units = none)

/-- R114, R75: while the task is not running no step changes a display pin, so `DISP_STOP` "guarantees no further pin activity after
return". -/
def Obligations.NoPinActivityWhenStopped : Prop :=
  ∀ s t : State, s.Inv → s.disp.attached = true → s.disp.running = false → step s = .next t →
    t.pins.data = s.pins.data ∧ t.pins.clk = s.pins.clk ∧ t.pins.latch = s.pins.latch ∧
    t.pins.selUnits = s.pins.selUnits ∧ t.pins.selTens = s.pins.selTens

/-- R132: once the stop is requested, every turn of REFRESH that no delay holds brings the end one turn nearer, and no other step of any
agent takes it further away or withdraws the request. -/
def Obligations.StopComesNearer : Prop :=
  ∀ s t : State, s.DispInv → s.disp.running = true → s.disp.stopReq = true → step s = .next t →
    (s.refreshMoves = true → refreshLeft t.disp + 1 = refreshLeft s.disp) ∧
    (s.refreshMoves = false → t.disp = s.disp) ∧
    (t.disp.running = true → t.disp.stopReq = true)

/-- R132: over any run (R242 as the premise of the rule), as long as the task still runs after the stop is requested, REFRESH has had fewer than `refreshLeft` turns that no
delay held, and `refreshLeft` is at most 180: the rest of one cycle, the test and the exit. So a `DISP_STOP` ends unless REFRESH is no
longer scheduled or a delay never ends (R242). -/
def Obligations.StopEndsWithinOneCycle : Prop :=
  ∀ (n : Nat) (s : State), s.DispInv → s.disp.stopReq = true →
    (∀ m, m ≤ n → ∃ u, Sys2Proof.core.run m s = .next u ∧ (State.disp u).running = true) →
      refreshTurnsIn n s < refreshLeft s.disp ∧ refreshLeft s.disp ≤ 180

/-! ## The bounded poll and the delay (41_singlewire.md R140, R141; 60_exceptions.md R231) -/

/-- R140, R141 (a), (c), (f): `Done(d)` only when the level was seen, with `d` the clock difference and no bound on it; `Timeout` only when
more than `T` microseconds have been counted and the level was not seen, and then without fail. -/
def Obligations.PollOutcomes : Prop :=
  ∀ (level line : Level) (T now : Nat) (w : WaitLocals) (sub : WaitSub),
    (∀ d w', waitTurn level T line now w sub = .done d w' ↔
      (sub = .c ∧ w.l = level ∧ d = now - w.t0 ∧ w' = { w with t := now })) ∧
    (∀ w', waitTurn level T line now w sub = .timeout w' ↔
      (sub = .c ∧ w.l ≠ level ∧ T < now - w.t0 ∧ w' = { w with t := now })) ∧
    (∀ sub' w', waitTurn level T line now w sub = .goesOn sub' w' ↔
      (sub = .a ∧ sub' = .b ∧ w' = { w with t0 := now }) ∨ (sub = .b ∧ sub' = .c ∧ w' = { w with l := line }) ∨
      (sub = .c ∧ w.l ≠ level ∧ now - w.t0 ≤ T ∧ sub' = .b ∧ w' = { w with t := now }))

/-- R231: a delay of `n` that begins at `tau` completes at no time below `tau + n`, and at every time from there on. -/
def Obligations.DelayIsLowerBound : Prop :=
  ∀ n tau tau' w : Nat, delayTurn n tau none = .starts w →
    (delayTurn n tau' (some w) = .over ↔ tau + n ≤ tau') ∧ (delayTurn n tau' (some w) = .held ↔ tau' < tau + n)

/-! ## SingleWirePulseDecoder (41_singlewire.md) -/

/-- R142, R143 step 1: `SW_MEASURE` is admitted whenever the engine is attached and idle; the line is turned to output and drives its
latch, the phase is `SW_START`, the caller is inside of the operation, and nothing else changes. -/
def Obligations.SwMeasureStarts : Prop :=
  ∀ s : State, s.sw.attached = true → s.sw.pc = .idle →
    ∃ s', exec .swMeasure s = .next s' ∧ s'.sw.pc.phase = .swStart ∧ s'.sw = { s.sw with pc := s'.sw.pc } ∧
      s'.pins = { s.pins with sw := ⟨.output, s.pins.sw.out, s.pins.sw.out⟩ } ∧
      (∀ a, Memory.read s'.mem a = Memory.read s.mem a) ∧
      s.callerEnters s' .swMeasure ∧ s' = { s with sw := s'.sw, pins := s'.pins, threads := s'.threads }

/-- R143, R144: the start signal drives the line low, holds it for at least 18 ms, drives it high and turns it to input at once. -/
def Obligations.SwStartSignal : Prop :=
  ∀ s : State, s.Inv →
    (s.sw.pc = .startLow → (swTurn s).pins.sw = ⟨.output, false, false⟩ ∧ (swTurn s).sw.pc = .startDelay) ∧
    (s.sw.pc = .startDelay → s.sw.wake = none → (swTurn s).sw.wake = some (s.tau + 18000000) ∧ (swTurn s).pins = s.pins) ∧
    (s.sw.pc = .startDelay → (swTurn s).sw.pc = .relHigh → ∃ w, s.sw.wake = some w ∧ w ≤ s.tau) ∧
    (s.sw.pc = .relHigh → (swTurn s).pins.sw = ⟨.output, true, true⟩ ∧ (swTurn s).sw.pc = .relIn) ∧
    (s.sw.pc = .relIn → (swTurn s).pins.sw.dir = .input ∧ (swTurn s).pins.sw.out = true ∧
      (swTurn s).sw.pc = .wait .ackLow .a)

/-- R156, R158: a single-wire wait that has not seen its level ends the operation when more than its timeout has been counted, with
`TimeoutError` and no reading, no pin touched, and the engine idle; until then it goes on polling. The levels and timeouts are those of R145
to R152: 1000 and 100 microseconds for the acknowledgement, `SW_T_LOW_US` and `SW_T_HIGH_US` (1000 and 100 by default) for the others. -/
def Obligations.SwTimeoutAborts : Prop :=
  (∀ c : Config,
    (SwWait.ackLow.level = false ∧ SwWait.ackLow.timeoutUs c = 1000) ∧
    (SwWait.ackHigh.level = true ∧ SwWait.ackHigh.timeoutUs c = 100) ∧
    (SwWait.preambleEnd.level = false ∧ SwWait.preambleEnd.timeoutUs c = c.swTLowUs) ∧
    (SwWait.bitFirst.level = true ∧ SwWait.bitFirst.timeoutUs c = c.swTHighUs) ∧
    (SwWait.bitSecond.level = false ∧ SwWait.bitSecond.timeoutUs c = c.swTLowUs) ∧
    (SwWait.tail.level = true ∧ SwWait.tail.timeoutUs c = c.swTHighUs)) ∧
  (defaultConfig.swTLowUs = 1000 ∧ defaultConfig.swTHighUs = 100) ∧
  ∀ (s : State) (st : SwWait), s.Inv → s.runs .swMeasure → s.sw.pc = .wait st .c → s.sw.wait.l ≠ st.level →
    (st.timeoutUs s.cfg < s.nowUs - s.sw.wait.t0 →
      ∃ s', step s = .next s' ∧ s.callerReturns s' (.reading .timeoutError none) ∧ s'.sw.pc = .idle ∧
        s'.pins = s.pins ∧ s'.pins.sw.dir = .input ∧ s'.pins.sw.out = true ∧
        s' = { s with sw := s'.sw, threads := s'.threads, script := s.script.tail, tick := s.tick + 1 }) ∧
    (s.nowUs - s.sw.wait.t0 ≤ st.timeoutUs s.cfg →
      ∃ s', step s = .next s' ∧ s'.sw.pc = .wait st .b ∧ s'.pins = s.pins ∧ s'.threads = s.threads)

/-- R149, R150, R151: the second wait of a slot ends it: the bit is 1 when the first interval is less than the second, it enters the frame
at the bottom, and after the fortieth the tail follows. -/
def Obligations.SwSlotDecidesBit : Prop :=
  ∀ s : State, s.Inv → s.sw.pc = .wait .bitSecond .c → s.sw.wait.l = false →
    (swTurn s).sw.d2 = s.nowUs - s.sw.wait.t0 ∧ (swTurn s).sw.k = s.sw.k + 1 ∧
    (swTurn s).sw.frame.toNat =
      2 * s.sw.frame.toNat + (if s.sw.d1 < s.nowUs - s.sw.wait.t0 then 1 else 0) ∧
    (swTurn s).sw.pc = (if s.sw.k = 39 then .wait .tail .a else .wait .bitFirst .a) ∧ (swTurn s).pins = s.pins

/-- R154, R155: the verdict returns the five bytes of the frame, most significant first, the temperature is `temperature_high`, and the
status says whether the sum modulo 256 of the first four is the fifth. -/
def Obligations.SwVerdict : Prop :=
  ∀ (s : State) (hh hl th tl ck : Byte), s.runs .swMeasure → s.sw.pc = .check → s.sw.frame = hh ++ hl ++ th ++ tl ++ ck →
    ∃ s', step s = .next s' ∧ s'.sw = { s.sw with pc := .idle } ∧
      s.callerReturns s' (.reading
        (if (hh.toNat + hl.toNat + th.toNat + tl.toNat) % 256 = ck.toNat then .ok else .checksumError)
        (some ⟨hh, hl, th, tl, ck, th⟩)) ∧
      s' = { s with sw := s'.sw, threads := s'.threads, script := s.script.tail, tick := s.tick + 1 }

/-- R142 to R155, the whole measurement: whatever intervals a sensor uses, a thread that presents `SW_MEASURE` and polls once after each
edge gets the reading of the frame that the forty slots decode to, with its verdict, and the line ends idle high. -/
def Obligations.SwMeasurementDecodesFrame : Prop :=
  ∀ (s : State) (k ackLow ackHigh preamble tail : Nat) (slots : List (Nat × Nat)) (more : List Choice) (th : Thread)
    (rest : List Call),
    s.sw.attached = true → s.sw.pc = .idle → s.sw.wake = none →
    s.threads[k]? = some th → th.act = .idle → th.reply = .direct → th.calls = .word 0x2000000000 :: rest →
    slots.length = 40 → s.script = swScript k ackLow ackHigh preamble tail slots ++ more →
    ∃ t, Sys2Proof.core.run (swScript k ackLow ackHigh preamble tail slots).length s = .next t ∧
      t.threads[k]? = some { th with
        calls := rest
        ret := some (.reading (checksumStatus (readingOf (frameOf slots))) (some (readingOf (frameOf slots)))) } ∧
      t.sw.pc = .idle ∧ t.pins = { s.pins with sw := ⟨.output, true, true⟩ } ∧ t.script = more ∧
      t.disp = s.disp ∧ t.echo = s.echo ∧ t.pwm = s.pwm ∧ t.mem = s.mem

/-- R86, R89, R150, R234: the slots in which the source's sensor sends a frame decode to that frame. -/
def Obligations.NominalSlotsDecode : Prop :=
  ∀ f : BitVec 40, (nominalSlots f).length = 40 ∧ frameOf (nominalSlots f) = f

/-! ## EchoRangeMeter (42_echo.md) -/

/-- R170, R171 step 1: `ECHO_MEASURE` is admitted whenever the engine is attached and idle; the trigger is driven high, the phase is
`EC_TRIGGER`, the caller is inside of the operation, and nothing else changes. -/
def Obligations.EchoMeasureStarts : Prop :=
  ∀ s : State, s.echo.attached = true → s.echo.pc = .idle → s.pins.trig.dir = .output →
    ∃ s', exec .echoMeasure s = .next s' ∧ s'.echo.pc.phase = .ecTrigger ∧ s'.echo = { s.echo with pc := s'.echo.pc } ∧
      s'.pins = { s.pins with trig := ⟨.output, true, true⟩ } ∧
      (∀ a, Memory.read s'.mem a = Memory.read s.mem a) ∧
      s.callerEnters s' .echoMeasure ∧ s' = { s with echo := s'.echo, pins := s'.pins, threads := s'.threads }

/-- R171: the trigger pulse lasts at least 10 microseconds and then the trigger is low. -/
def Obligations.EchoTriggerPulse : Prop :=
  ∀ s : State, s.Inv →
    (s.echo.pc = .trigDelay → s.echo.wake = none → (ecTurn s).echo.wake = some (s.tau + 10000) ∧ (ecTurn s).pins = s.pins) ∧
    (s.echo.pc = .trigDelay → (ecTurn s).echo.pc = .trigLow → ∃ w, s.echo.wake = some w ∧ w ≤ s.tau) ∧
    (s.echo.pc = .trigLow → (ecTurn s).pins = { s.pins with trig := ⟨.output, false, false⟩ } ∧
      (ecTurn s).echo.pc = .wait .high .a)

/-- R177 (with R172, R173): an echo wait that has not seen its level ends the operation when more than 13200 microseconds of its own have
been counted, with `TimeoutError` and no distance, the phase idle and no pin written, the trigger low and the echo pin an input; until then
it goes on polling. -/
def Obligations.EchoTimeoutAborts : Prop :=
  ∀ (s : State) (st : EcWait), s.Inv → s.runs .echoMeasure → s.echo.pc = .wait st .c → s.echo.wait.l ≠ st.level →
    (13200 < s.nowUs - s.echo.wait.t0 →
      ∃ s', step s = .next s' ∧ s.callerReturns s' (.distance .timeoutError none) ∧ s'.echo.pc = .idle ∧
        s'.pins = s.pins ∧ s'.pins.trig = ⟨.output, false, false⟩ ∧ s'.pins.echo.dir = .input ∧
        s' = { s with echo := s'.echo, threads := s'.threads, script := s.script.tail, tick := s.tick + 1 }) ∧
    (s.nowUs - s.echo.wait.t0 ≤ 13200 →
      ∃ s', step s = .next s' ∧ s'.echo.pc = .wait st .b ∧ s'.pins = s.pins ∧ s'.threads = s.threads)

/-- R170 to R175, the whole measurement: a thread that presents `ECHO_MEASURE` and polls once after each edge of an echo that is high for
`high` microseconds gets `high * 340 * 50 div ECHO_DIVISOR`, however late the echo comes, and the trigger ends low. -/
def Obligations.EchoMeasurementConverts : Prop :=
  ∀ (s : State) (k rise high : Nat) (more : List Choice) (th : Thread) (rest : List Call),
    s.Inv → s.echo.attached = true → s.echo.pc = .idle →
    s.threads[k]? = some th → th.act = .idle → th.reply = .direct → th.calls = .word 0x3000000000 :: rest →
    s.script = echoScript k rise high ++ more →
    ∃ t, Sys2Proof.core.run (echoScript k rise high).length s = .next t ∧
      t.threads[k]? = some { th with
        calls := rest
        ret := some (.distance .ok (some (high * 340 * 50 / s.cfg.echoDivisor))) } ∧
      t.echo.pc = .idle ∧ t.pins.trig = ⟨.output, false, false⟩ ∧ t.script = more ∧
      t.disp = s.disp ∧ t.sw = s.sw ∧ t.pwm = s.pwm ∧ t.mem = s.mem

/-! ## DutyCycleController (43_pwm.md) -/

/-- R186, R188, R189, R190: a percentage in range with its commit accepted: the collaborator holds the period of 1000000 ns, the duty of
10000 times the percentage and `enabled`, the percentage is kept, the caller gets `Ok`, and nothing else changes. -/
def Obligations.DutyAccepted : Prop :=
  ∀ (s : State) (p : Int), s.pwm.attached = true → 0 ≤ p → p ≤ 100 → s.choice.accept = true →
    ∃ s', exec (.pwmSetDuty p) s = .next s' ∧
      s'.pwm.out.periodNs.toNat = 1000000 ∧ (s'.pwm.out.dutyNs.toNat : Int) = 10000 * p ∧ s'.pwm.out.enabled = true ∧
      (s'.pwm.lastPercent : Int) = p ∧ s'.pwm.attached = true ∧ s'.commits = s.commits + 1 ∧
      s.callerReturns s' (.status .ok) ∧ (∀ a, Memory.read s'.mem a = Memory.read s.mem a) ∧
      s' = { s with pwm := s'.pwm, commits := s'.commits, threads := s'.threads }

/-- R189, R191: a rejected commit gives `ApplyError` and leaves the output and the percentage as they were. -/
def Obligations.DutyRejected : Prop :=
  ∀ (s : State) (p : Int), s.pwm.attached = true → 0 ≤ p → p ≤ 100 → s.choice.accept = false →
    ∃ s', exec (.pwmSetDuty p) s = .next s' ∧ s'.pwm = s.pwm ∧ s'.commits = s.commits + 1 ∧
      s.callerReturns s' (.status .applyError) ∧ s' = { s with commits := s'.commits, threads := s'.threads }

/-- R187: a percentage outside 0 to 100 gives `InvalidArgument` and no commit is made, whatever the collaborator would have answered; both
ends of the range reach the commit. -/
def Obligations.DutyOutOfRange : Prop :=
  ∀ (s : State) (p : Int), s.pwm.attached = true →
    (p < 0 ∨ 100 < p → ∃ s', exec (.pwmSetDuty p) s = .next s' ∧ s.callerReturns s' (.status .invalidArgument) ∧
      s'.commits = s.commits ∧ s'.pwm = s.pwm ∧ s' = { s with threads := s'.threads }) ∧
    (p = 0 ∨ p = 100 → s.choice.accept = true →
      ∃ s', exec (.pwmSetDuty p) s = .next s' ∧ s.callerReturns s' (.status .ok) ∧ s'.commits = s.commits + 1)

/-! ## Refused requests (93_implementation_defined.md, 60_exceptions.md R243) -/

/-- R243, U1, U2, U3: a second start, a start while a stop is in progress (D35, log entry 27), a stop of a stopped display, a second stop and
a second measurement are refused, each under its own name; R217, U7: a write to the single-wire or the ultrasonic device is refused. -/
def Obligations.UndefinedRequestsRefused : Prop :=
  ∀ s : State,
    (∀ bs, issue (.swWrite bs) s = .refused (.undefinedWrite .sw) ∧
      issue (.echoWrite bs) s = .refused (.undefinedWrite .echo)) ∧
    (s.disp.attached = true → s.disp.running = true → exec .dispStart s = .refused .startWhileRunning) ∧
    (s.disp.attached = true → s.disp.running = false → s.stopInProgress = true →
      exec .dispStart s = .refused .startDuringStop) ∧
    (s.disp.attached = true → s.disp.running = false → exec .dispStop s = .refused .stopWhileNotRunning) ∧
    (s.disp.attached = true → s.disp.running = true → s.stopInProgress = true →
      exec .dispStop s = .refused .stopInProgress) ∧
    (s.sw.attached = true → s.sw.pc ≠ .idle → exec .swMeasure s = .refused .swBusy) ∧
    (s.echo.attached = true → s.echo.pc ≠ .idle → exec .echoMeasure s = .refused .echoBusy)

/-- R256, U6: every operation on an engine that is not attached is refused. -/
def Obligations.DetachedRefused : Prop :=
  ∀ s : State,
    (s.disp.attached = false → ∀ t u, exec (.dispSetDigits t u) s = .refused (.notAttached .disp) ∧
      exec .dispStart s = .refused (.notAttached .disp) ∧ exec .dispStop s = .refused (.notAttached .disp)) ∧
    (s.sw.attached = false → exec .swMeasure s = .refused (.notAttached .sw)) ∧
    (s.echo.attached = false → exec .echoMeasure s = .refused (.notAttached .echo)) ∧
    (s.pwm.attached = false → ∀ p, exec (.pwmSetDuty p) s = .refused (.notAttached .pwm))

/-! ## The character interface (44_charif.md) -/

/-- R208, R211: what the interface prints in decimal it also parses: every number below 10^9 as printed, and every number below 10^8 with a
line feed after it (nine bytes at most) exactly when `PWM_PARSE_ACCEPT_LF` is set. -/
def Obligations.DecimalParsesBack : Prop :=
  ∀ n : Nat, n < 1000000000 → ∀ lf : Bool,
    parsePercent lf (decimal n) = some (n : Int) ∧
      (n < 100000000 → parsePercent true (decimal n ++ [0x0A]) = some (n : Int) ∧
        parsePercent false (decimal n ++ [0x0A]) = none)

/-- R201 to R206: a display write is the one `DISP_SET_DIGITS` its byte count selects, and when that has returned nothing the write reports
its bytes as consumed. -/
def Obligations.DisplayWriteExpands : Prop :=
  ∀ (s : State) (b0 b1 b2 : Byte) (bs : List Byte),
    issue (.dispWrite []) s = exec (.dispSetDigits 0 0) (s.setReply (.wrote 0)) ∧
    issue (.dispWrite [b0]) s = exec (.dispSetDigits 0 (b0 - 0x30)) (s.setReply (.wrote 1)) ∧
    issue (.dispWrite [b0, b1]) s = exec (.dispSetDigits (b0 - 0x30) (b1 - 0x30)) (s.setReply (.wrote 2)) ∧
    (s.cfg.longWriteReturn = .allBytes → issue (.dispWrite (b0 :: b1 :: b2 :: bs)) s =
      exec (.dispSetDigits (b0 - 0x30) (b1 - 0x30)) (s.setReply (.wrote (bs.length + 3)))) ∧
    (s.cfg.longWriteReturn = .two → issue (.dispWrite (b0 :: b1 :: b2 :: bs)) s =
      exec (.dispSetDigits (b0 - 0x30) (b1 - 0x30)) (s.setReply (.wrote 2))) ∧
    ∀ n, (Reply.wrote n).answer .void = .wrote n

/-- R209, R213: a read of the PWM device and a read of the single-wire sensor at a nonzero offset return zero bytes, make no measurement
and touch nothing but their caller. So do a read of the display and a read of the ultrasonic sensor at a nonzero offset, which is the
spec's own choice (R207, R216: D38). That the caller's position stays where it was is log entry 23. -/
def Obligations.EmptyReads : Prop :=
  ∀ (s : State) (off : Nat) (c : Call) (e : Engine),
    (c = .dispRead off ∧ e = .disp ∨ c = .pwmRead off ∧ e = .pwm ∨ 0 < off ∧ c = .swRead off ∧ e = .sw ∨
      0 < off ∧ c = .echoRead off ∧ e = .echo) → s.attached e = true →
    ∃ s', issue c s = .next s' ∧ s.callerReturns s' (.bytes [] off) ∧ s' = { s with threads := s'.threads }

/-- R208, R214, R215, R216, R218: a sensor read at offset 0 performs one measurement, and this is what it makes of each result. The stream
position after a read is the offset and the bytes returned, which R208 gives for the single-wire sensor and log entry 23 takes over for the
ultrasonic sensor. -/
def Obligations.SensorReadAnswers : Prop :=
  (∀ s : State, issue (.swRead 0) s = exec .swMeasure (s.setReply (.swRead 0)) ∧
    issue (.echoRead 0) s = exec .echoMeasure (s.setReply (.echoRead 0))) ∧
  (∀ (st : Status) (r : Reading), (Reply.swRead 0).answer (.reading st (some r)) =
    .bytes (decimal r.temperature.toNat) (decimal r.temperature.toNat).length) ∧
  (∀ v : Nat, (Reply.echoRead 0).answer (.distance .ok (some v)) =
    .bytes ([0x44, 0x69, 0x73, 0x74, 0x61, 0x6E, 0x63, 0x65, 0x20, 0x3A, 0x20] ++ decimal (v / 10)
      ++ [0x2E, BitVec.ofNat 8 (0x30 + v % 10), 0x0A]) (14 + (decimal (v / 10)).length)) ∧
  (Reply.swRead 0).answer (.reading .timeoutError none) = .error .timeoutError ∧
  (Reply.echoRead 0).answer (.distance .timeoutError none) = .error .timeoutError ∧
  decimal 0 = [0x30] ∧ decimal 24 = [0x32, 0x34] ∧ decimal 255 = [0x32, 0x35, 0x35]

/-- R210, R211, R212: the bytes of a PWM write parse exactly when there are at most nine of them and they are a sign or none, one or more
digits, and a line feed or none (only if `PWM_PARSE_ACCEPT_LF`), and the value is the decimal value of the digits with the sign applied. A
write that does not parse gives `InvalidArgument` and touches nothing but its caller; one that parses is the `PWM_SET_DUTY` of its value,
and returns the byte count or the error of that operation. -/
def Obligations.PwmWriteParses : Prop :=
  (∀ (lf : Bool) (bs : List Byte) (p : Int), parsePercent lf bs = some p ↔
    ∃ sign digits tail : List Byte, bs = sign ++ digits ++ tail ∧ bs.length ≤ 9 ∧
      (sign = [] ∨ sign = [0x2B] ∨ sign = [0x2D]) ∧
      digits ≠ [] ∧ (∀ b ∈ digits, 0x30 ≤ b.toNat ∧ b.toNat ≤ 0x39) ∧
      (tail = [] ∨ tail = [0x0A] ∧ lf = true) ∧
      p = (if sign = [0x2D] then -1 else 1) * ((digits.foldl (fun v b => v * 10 + (b.toNat - 0x30)) 0 : Nat) : Int)) ∧
  (∀ n : Nat, (Reply.wrote n).answer (.status .ok) = .wrote n ∧
    ∀ st, st ≠ .ok → (Reply.wrote n).answer (.status st) = .error st) ∧
  ∀ (s : State) (bs : List Byte), s.pwm.attached = true →
    (parsePercent s.cfg.acceptLf bs = none →
      ∃ s', issue (.pwmWrite bs) s = .next s' ∧ s.callerReturns s' (.error .invalidArgument) ∧
        s' = { s with threads := s'.threads }) ∧
    (∀ p, parsePercent s.cfg.acceptLf bs = some p →
      issue (.pwmWrite bs) s = exec (.pwmSetDuty p) (s.setReply (.wrote bs.length)))

/-! ## Attach, detach, reset (70_reset_and_hazards.md) -/

/-- R250 to R254, R192: attach with its pins acquired (and, for the PWM engine, its default commit accepted) completes, leaves the engine's
own registers and pins at the values of 10_state.md R52, and touches no other engine. -/
def Obligations.AttachResets : Prop :=
  ∀ s : State, Memory.wf s.mem = true → s.choice.acquire = true →
    (s.disp.attached = false → ∃ t, attach .disp s = .next t ∧ s.callerReturns t (.status .ok) ∧
      t.disp.attached = true ∧ t.disp.running = false ∧ t.disp.stopReq = false ∧ t.disp.pc = .idle ∧
      t.digitTens = 0 ∧ t.digitUnits = 0 ∧ t.dark ∧
      t.pins.data = ⟨.output, false, false⟩ ∧ t.pins.clk = ⟨.output, false, false⟩ ∧
      t.pins.latch = ⟨.output, false, false⟩ ∧ t.pins.selUnits.drives ∧ t.pins.selTens.drives ∧
      t.pins.sw = s.pins.sw ∧ t.pins.trig = s.pins.trig ∧ t.pins.echo = s.pins.echo ∧
      t.sw = s.sw ∧ t.echo = s.echo ∧ t.pwm = s.pwm) ∧
    (s.sw.attached = false → ∃ t, attach .sw s = .next t ∧ s.callerReturns t (.status .ok) ∧
      t.sw.attached = true ∧ t.sw.pc = .idle ∧ t.pins = { s.pins with sw := ⟨.output, true, true⟩ } ∧
      t.disp = s.disp ∧ t.echo = s.echo ∧ t.pwm = s.pwm ∧ t.mem = s.mem) ∧
    (s.echo.attached = false → ∃ t, attach .echo s = .next t ∧ s.callerReturns t (.status .ok) ∧
      t.echo.attached = true ∧ t.echo.pc = .idle ∧ t.pins.trig = ⟨.output, false, false⟩ ∧ t.pins.echo.dir = .input ∧
      t.pins = { s.pins with trig := t.pins.trig, echo := t.pins.echo } ∧
      t.disp = s.disp ∧ t.sw = s.sw ∧ t.pwm = s.pwm ∧ t.mem = s.mem) ∧
    (s.pwm.attached = false → s.choice.accept = true → ∃ t, attach .pwm s = .next t ∧
      s.callerReturns t (.status .ok) ∧ t.pwm = ⟨true, 50, ⟨1000000, 500000, true⟩⟩ ∧
      t = { s with pwm := t.pwm, commits := s.commits + 1, threads := t.threads })

/-- R255, R254: a failed acquisition gives `AcquireError`, leaves no instance and touches nothing but the caller, no pin, no register of any
instance; a rejected default commit gives `ApplyError` and no instance, and touches nothing but the caller and the count of commits (the
model's observer, log entry 15). -/
def Obligations.AttachFailures : Prop :=
  ∀ (s : State) (e : Engine), s.SwInv → s.EchoInv → s.attached e = false →
    (s.choice.acquire = false → ∃ t, attach e s = .next t ∧ t.attached e = false ∧
      s.callerReturns t (.status .acquireError) ∧ t = { s with threads := t.threads }) ∧
    (e = .pwm → s.choice.acquire = true → s.choice.accept = false → ∃ t, attach .pwm s = .next t ∧ t.attached .pwm = false ∧
      s.callerReturns t (.status .applyError) ∧ t = { s with threads := t.threads, commits := s.commits + 1 })

/-- R256: detach of an idle instance ends it and writes no pin; detach of a busy one is refused. A sensor is busy exactly while a measurement is
in progress, the PWM engine never, and the display exactly while it runs or (log entry 12) one of its operations is in progress. -/
def Obligations.DetachWhenIdle : Prop :=
  ∀ (s : State) (e : Engine), s.attached e = true →
    (s.busy e = false → ∃ t, detach e s = .next t ∧ t.attached e = false ∧
      (∀ e', e' ≠ e → t.attached e' = s.attached e') ∧ t.pins = s.pins ∧ t.mem = s.mem ∧ s.callerReturns t .void) ∧
    (s.busy e = true → detach e s = .refused (.detachBusy e)) ∧
    (s.busy .disp = true ↔ s.disp.running = true ∨ s.stopInProgress = true ∨ s.setInProgress = true) ∧
    (s.busy .sw = true ↔ s.sw.pc ≠ .idle) ∧ (s.busy .echo = true ↔ s.echo.pc ≠ .idle) ∧ s.busy .pwm = false

/-- R52: what reset leaves, where the spec gives the value. -/
def Obligations.ResetValues : Prop :=
  State.reset.digitTens = 0 ∧ State.reset.digitUnits = 0 ∧ State.reset.disp.running = false ∧
  State.reset.disp.stopReq = false ∧ State.reset.disp.pc = .idle ∧ State.reset.sw.pc = .idle ∧ State.reset.echo.pc = .idle ∧
  State.reset.pins.data = ⟨.output, false, false⟩ ∧ State.reset.pins.clk = ⟨.output, false, false⟩ ∧
  State.reset.pins.latch = ⟨.output, false, false⟩ ∧ State.reset.dark ∧
  State.reset.pins.selUnits.drives ∧ State.reset.pins.selTens.drives ∧
  State.reset.pins.sw = ⟨.output, true, true⟩ ∧ State.reset.pins.trig = ⟨.output, false, false⟩ ∧
  State.reset.pins.echo.dir = .input ∧ State.reset.pwm.lastPercent = 50 ∧
  State.reset.pwm.out = ⟨1000000, 500000, true⟩ ∧ State.reset.quiescent = true

/-- The state after reset meets the invariant of the whole block. -/
def Obligations.ResetMeetsInv : Prop := State.reset.Inv

/-! ## The whole block -/

/-- Every step of every agent keeps the invariant of the whole block: the canonical memory (R61), the display (R130, R131), the
single-wire pin and counters (R143 to R156), the trigger (R171), the PwmState (R45), one operation at a time per engine (R243). -/
def Obligations.StepKeepsInv : Prop :=
  ∀ s t : State, s.Inv → step s = .next t → t.Inv

/-- R143 to R156, R171 to R177: every step of every agent keeps the invariants of the single-wire and of the echo engine. -/
def Obligations.MeasuringInvsKept : Prop :=
  ∀ s t : State, s.SwInv → s.EchoInv → step s = .next t → t.SwInv ∧ t.EchoInv

/-- R45, R189: every step of every agent leaves the collaborator with the period of 1000000 ns, the duty of 10000 times the last
percentage, at most 100, and `enabled`, and keeps the DisplayState memory canonical. -/
def Obligations.PwmAndMemoryInvKept : Prop :=
  ∀ s t : State, s.Inv → step s = .next t → t.PwmInv ∧ Memory.wf t.mem = true

/-- R243, R262: at most one operation at a time per engine, after every step of every agent. -/
def Obligations.CallersInvKept : Prop :=
  ∀ s t : State, s.Inv → step s = .next t → t.CallersInv

/-- R20, R232: a turn of REFRESH touches no other engine, no memory and no other pin; a turn of a thread inside of a measurement touches only
its own engine, its own pin and itself, no other thread; what ENV does on its own changes no register, no output pin and no memory, and the time only
upwards. -/
def Obligations.AgentsTouchOnlyTheirOwn : Prop :=
  ∀ s t : State, step s = .next t →
    (s.choice.agent = .refresh → t = { s with
      disp := t.disp, ext := t.ext, script := s.script.tail, tick := s.tick + 1,
      pins := { t.pins with sw := s.pins.sw, trig := s.pins.trig, echo := s.pins.echo } }) ∧
    (s.runs .swMeasure → t = { s with
      sw := t.sw, threads := t.threads, script := s.script.tail, tick := s.tick + 1, pins := { s.pins with sw := t.pins.sw } } ∧
      t.threads.length = s.threads.length ∧ ∀ j, j ≠ s.caller → t.threads[j]? = s.threads[j]?) ∧
    (s.runs .echoMeasure → t = { s with
      echo := t.echo, threads := t.threads, script := s.script.tail, tick := s.tick + 1,
      pins := { s.pins with trig := t.pins.trig } } ∧
      t.threads.length = s.threads.length ∧ ∀ j, j ≠ s.caller → t.threads[j]? = s.threads[j]?) ∧
    (∀ a, s.choice.agent = .env a → s.tau ≤ t.tau ∧
      (∀ p, (s.pins.get p).dir = .output → t.pins.get p = s.pins.get p) ∧
      (∀ p, (t.pins.get p).dir = (s.pins.get p).dir ∧ (t.pins.get p).out = (s.pins.get p).out) ∧
      t = { s with tau := t.tau, pins := t.pins, ext := t.ext, script := s.script.tail, tick := s.tick + 1 })

/-- R230, R51: time never decreases, only ENV moves it, and no step changes a parameter. -/
def Obligations.TimeAndParameters : Prop :=
  ∀ s t : State, step s = .next t → t.cfg = s.cfg ∧ s.tau ≤ t.tau ∧
    ((∀ a, s.choice.agent ≠ .env a) → t.tau = s.tau)

/-- R52, 93_implementation_defined.md U15: no step reads a working register before writing it, nor the output latch of `ECHO`: the outcome of
a step is the same whatever the registers hold that are marked "no value", up to those registers themselves. -/
def Obligations.DeadRegistersNotRead : Prop :=
  ∀ s : State, mapNext State.eraseDead (step s.eraseDead) = mapNext State.eraseDead (step s)

/-- R242, R132, R141 (e), R218: under the premise of R242, a run without end that is fair and in which time grows beyond every bound, every
operation in progress ends: `stop()` "always terminates", and "no interface blocks indefinitely", neither a measurement of a sensor nor a
`DISP_SET_DIGITS`; its thread is idle again with an answer. (Each step of the run is governed by a choice of its own, so this is every run
of scheduler and environment, log entry 2.) -/
def Obligations.OperationsEnd : Prop :=
  ∀ (run : Nat → State) (choices : Nat → Choice), FairRun run choices → (run 0).Inv →
    ∀ (k : Nat) (th : Thread), (run 0).threads[k]? = some th → th.act ≠ .idle →
      ∃ n th', (run n).threads[k]? = some th' ∧ th'.act = .idle ∧ th'.ret ≠ none
end

