-- ==== Sys2Proof/Laws/State.lean ====
section
/-! SUPPORT. One lemma per field per update of the state, true by unfolding, so that no later proof unfolds a record update. -/

namespace Sys2Proof.Machine

variable (s : State)

/-! ### updCaller -/

@[simp] theorem State.updCaller_cfg (f : Thread → Thread) :
    (s.updCaller f).cfg = s.cfg := rfl
@[simp] theorem State.updCaller_disp (f : Thread → Thread) :
    (s.updCaller f).disp = s.disp := rfl
@[simp] theorem State.updCaller_sw (f : Thread → Thread) :
    (s.updCaller f).sw = s.sw := rfl
@[simp] theorem State.updCaller_echo (f : Thread → Thread) :
    (s.updCaller f).echo = s.echo := rfl
@[simp] theorem State.updCaller_pwm (f : Thread → Thread) :
    (s.updCaller f).pwm = s.pwm := rfl
@[simp] theorem State.updCaller_mem (f : Thread → Thread) :
    (s.updCaller f).mem = s.mem := rfl
@[simp] theorem State.updCaller_pins (f : Thread → Thread) :
    (s.updCaller f).pins = s.pins := rfl
@[simp] theorem State.updCaller_ext (f : Thread → Thread) :
    (s.updCaller f).ext = s.ext := rfl
@[simp] theorem State.updCaller_tau (f : Thread → Thread) :
    (s.updCaller f).tau = s.tau := rfl
@[simp] theorem State.updCaller_threads (f : Thread → Thread) :
    (s.updCaller f).threads = s.threads.modify s.caller f := rfl
@[simp] theorem State.updCaller_script (f : Thread → Thread) :
    (s.updCaller f).script = s.script := rfl
@[simp] theorem State.updCaller_tick (f : Thread → Thread) :
    (s.updCaller f).tick = s.tick := rfl
@[simp] theorem State.updCaller_commits (f : Thread → Thread) :
    (s.updCaller f).commits = s.commits := rfl
@[simp] theorem State.updCaller_choice (f : Thread → Thread) : (s.updCaller f).choice = s.choice := rfl
@[simp] theorem State.updCaller_caller (f : Thread → Thread) : (s.updCaller f).caller = s.caller := rfl

/-! ### enter -/

@[simp] theorem State.enter_cfg (a : Activity) :
    (s.enter a).cfg = s.cfg := rfl
@[simp] theorem State.enter_disp (a : Activity) :
    (s.enter a).disp = s.disp := rfl
@[simp] theorem State.enter_sw (a : Activity) :
    (s.enter a).sw = s.sw := rfl
@[simp] theorem State.enter_echo (a : Activity) :
    (s.enter a).echo = s.echo := rfl
@[simp] theorem State.enter_pwm (a : Activity) :
    (s.enter a).pwm = s.pwm := rfl
@[simp] theorem State.enter_mem (a : Activity) :
    (s.enter a).mem = s.mem := rfl
@[simp] theorem State.enter_pins (a : Activity) :
    (s.enter a).pins = s.pins := rfl
@[simp] theorem State.enter_ext (a : Activity) :
    (s.enter a).ext = s.ext := rfl
@[simp] theorem State.enter_tau (a : Activity) :
    (s.enter a).tau = s.tau := rfl
@[simp] theorem State.enter_threads (a : Activity) :
    (s.enter a).threads = s.threads.modify s.caller fun th => { th with act := a } := rfl
@[simp] theorem State.enter_script (a : Activity) :
    (s.enter a).script = s.script := rfl
@[simp] theorem State.enter_tick (a : Activity) :
    (s.enter a).tick = s.tick := rfl
@[simp] theorem State.enter_commits (a : Activity) :
    (s.enter a).commits = s.commits := rfl
@[simp] theorem State.enter_choice (a : Activity) : (s.enter a).choice = s.choice := rfl
@[simp] theorem State.enter_caller (a : Activity) : (s.enter a).caller = s.caller := rfl

/-! ### setReply -/

@[simp] theorem State.setReply_cfg (r : Reply) :
    (s.setReply r).cfg = s.cfg := rfl
@[simp] theorem State.setReply_disp (r : Reply) :
    (s.setReply r).disp = s.disp := rfl
@[simp] theorem State.setReply_sw (r : Reply) :
    (s.setReply r).sw = s.sw := rfl
@[simp] theorem State.setReply_echo (r : Reply) :
    (s.setReply r).echo = s.echo := rfl
@[simp] theorem State.setReply_pwm (r : Reply) :
    (s.setReply r).pwm = s.pwm := rfl
@[simp] theorem State.setReply_mem (r : Reply) :
    (s.setReply r).mem = s.mem := rfl
@[simp] theorem State.setReply_pins (r : Reply) :
    (s.setReply r).pins = s.pins := rfl
@[simp] theorem State.setReply_ext (r : Reply) :
    (s.setReply r).ext = s.ext := rfl
@[simp] theorem State.setReply_tau (r : Reply) :
    (s.setReply r).tau = s.tau := rfl
@[simp] theorem State.setReply_threads (r : Reply) :
    (s.setReply r).threads = s.threads.modify s.caller fun th => { th with reply := r } := rfl
@[simp] theorem State.setReply_script (r : Reply) :
    (s.setReply r).script = s.script := rfl
@[simp] theorem State.setReply_tick (r : Reply) :
    (s.setReply r).tick = s.tick := rfl
@[simp] theorem State.setReply_commits (r : Reply) :
    (s.setReply r).commits = s.commits := rfl
@[simp] theorem State.setReply_choice (r : Reply) : (s.setReply r).choice = s.choice := rfl
@[simp] theorem State.setReply_caller (r : Reply) : (s.setReply r).caller = s.caller := rfl

/-! ### giveBack -/

@[simp] theorem State.giveBack_cfg (r : Return) :
    (s.giveBack r).cfg = s.cfg := rfl
@[simp] theorem State.giveBack_disp (r : Return) :
    (s.giveBack r).disp = s.disp := rfl
@[simp] theorem State.giveBack_sw (r : Return) :
    (s.giveBack r).sw = s.sw := rfl
@[simp] theorem State.giveBack_echo (r : Return) :
    (s.giveBack r).echo = s.echo := rfl
@[simp] theorem State.giveBack_pwm (r : Return) :
    (s.giveBack r).pwm = s.pwm := rfl
@[simp] theorem State.giveBack_mem (r : Return) :
    (s.giveBack r).mem = s.mem := rfl
@[simp] theorem State.giveBack_pins (r : Return) :
    (s.giveBack r).pins = s.pins := rfl
@[simp] theorem State.giveBack_ext (r : Return) :
    (s.giveBack r).ext = s.ext := rfl
@[simp] theorem State.giveBack_tau (r : Return) :
    (s.giveBack r).tau = s.tau := rfl
@[simp] theorem State.giveBack_threads (r : Return) :
    (s.giveBack r).threads = s.threads.modify s.caller fun th => { th with act := .idle, reply := .direct, ret := some (th.reply.answer r) } := rfl
@[simp] theorem State.giveBack_script (r : Return) :
    (s.giveBack r).script = s.script := rfl
@[simp] theorem State.giveBack_tick (r : Return) :
    (s.giveBack r).tick = s.tick := rfl
@[simp] theorem State.giveBack_commits (r : Return) :
    (s.giveBack r).commits = s.commits := rfl
@[simp] theorem State.giveBack_choice (r : Return) : (s.giveBack r).choice = s.choice := rfl
@[simp] theorem State.giveBack_caller (r : Return) : (s.giveBack r).caller = s.caller := rfl

/-! ### setPins -/

@[simp] theorem State.setPins_cfg (ps : Pins) :
    (s.setPins ps).cfg = s.cfg := rfl
@[simp] theorem State.setPins_disp (ps : Pins) :
    (s.setPins ps).disp = s.disp := rfl
@[simp] theorem State.setPins_sw (ps : Pins) :
    (s.setPins ps).sw = s.sw := rfl
@[simp] theorem State.setPins_echo (ps : Pins) :
    (s.setPins ps).echo = s.echo := rfl
@[simp] theorem State.setPins_pwm (ps : Pins) :
    (s.setPins ps).pwm = s.pwm := rfl
@[simp] theorem State.setPins_mem (ps : Pins) :
    (s.setPins ps).mem = s.mem := rfl
@[simp] theorem State.setPins_pins (ps : Pins) :
    (s.setPins ps).pins = ps := rfl
@[simp] theorem State.setPins_ext (ps : Pins) :
    (s.setPins ps).ext = s.ext.react s.pins ps := rfl
@[simp] theorem State.setPins_tau (ps : Pins) :
    (s.setPins ps).tau = s.tau := rfl
@[simp] theorem State.setPins_threads (ps : Pins) :
    (s.setPins ps).threads = s.threads := rfl
@[simp] theorem State.setPins_script (ps : Pins) :
    (s.setPins ps).script = s.script := rfl
@[simp] theorem State.setPins_tick (ps : Pins) :
    (s.setPins ps).tick = s.tick := rfl
@[simp] theorem State.setPins_commits (ps : Pins) :
    (s.setPins ps).commits = s.commits := rfl
@[simp] theorem State.setPins_choice (ps : Pins) : (s.setPins ps).choice = s.choice := rfl
@[simp] theorem State.setPins_caller (ps : Pins) : (s.setPins ps).caller = s.caller := rfl

/-! ### pinWrite -/

@[simp] theorem State.pinWrite_cfg (p : Pin) (v : Level) :
    (s.pinWrite p v).cfg = s.cfg := rfl
@[simp] theorem State.pinWrite_disp (p : Pin) (v : Level) :
    (s.pinWrite p v).disp = s.disp := rfl
@[simp] theorem State.pinWrite_sw (p : Pin) (v : Level) :
    (s.pinWrite p v).sw = s.sw := rfl
@[simp] theorem State.pinWrite_echo (p : Pin) (v : Level) :
    (s.pinWrite p v).echo = s.echo := rfl
@[simp] theorem State.pinWrite_pwm (p : Pin) (v : Level) :
    (s.pinWrite p v).pwm = s.pwm := rfl
@[simp] theorem State.pinWrite_mem (p : Pin) (v : Level) :
    (s.pinWrite p v).mem = s.mem := rfl
@[simp] theorem State.pinWrite_pins (p : Pin) (v : Level) :
    (s.pinWrite p v).pins = s.pins.set p ((s.pins.get p).write v) := rfl
@[simp] theorem State.pinWrite_ext (p : Pin) (v : Level) :
    (s.pinWrite p v).ext = s.ext.react s.pins (s.pins.set p ((s.pins.get p).write v)) := rfl
@[simp] theorem State.pinWrite_tau (p : Pin) (v : Level) :
    (s.pinWrite p v).tau = s.tau := rfl
@[simp] theorem State.pinWrite_threads (p : Pin) (v : Level) :
    (s.pinWrite p v).threads = s.threads := rfl
@[simp] theorem State.pinWrite_script (p : Pin) (v : Level) :
    (s.pinWrite p v).script = s.script := rfl
@[simp] theorem State.pinWrite_tick (p : Pin) (v : Level) :
    (s.pinWrite p v).tick = s.tick := rfl
@[simp] theorem State.pinWrite_commits (p : Pin) (v : Level) :
    (s.pinWrite p v).commits = s.commits := rfl
@[simp] theorem State.pinWrite_choice (p : Pin) (v : Level) : (s.pinWrite p v).choice = s.choice := rfl
@[simp] theorem State.pinWrite_caller (p : Pin) (v : Level) : (s.pinWrite p v).caller = s.caller := rfl

/-! ### pinDir -/

@[simp] theorem State.pinDir_cfg (p : Pin) (d : Dir) :
    (s.pinDir p d).cfg = s.cfg := rfl
@[simp] theorem State.pinDir_disp (p : Pin) (d : Dir) :
    (s.pinDir p d).disp = s.disp := rfl
@[simp] theorem State.pinDir_sw (p : Pin) (d : Dir) :
    (s.pinDir p d).sw = s.sw := rfl
@[simp] theorem State.pinDir_echo (p : Pin) (d : Dir) :
    (s.pinDir p d).echo = s.echo := rfl
@[simp] theorem State.pinDir_pwm (p : Pin) (d : Dir) :
    (s.pinDir p d).pwm = s.pwm := rfl
@[simp] theorem State.pinDir_mem (p : Pin) (d : Dir) :
    (s.pinDir p d).mem = s.mem := rfl
@[simp] theorem State.pinDir_pins (p : Pin) (d : Dir) :
    (s.pinDir p d).pins = s.pins.set p ((s.pins.get p).turn d) := rfl
@[simp] theorem State.pinDir_ext (p : Pin) (d : Dir) :
    (s.pinDir p d).ext = s.ext.react s.pins (s.pins.set p ((s.pins.get p).turn d)) := rfl
@[simp] theorem State.pinDir_tau (p : Pin) (d : Dir) :
    (s.pinDir p d).tau = s.tau := rfl
@[simp] theorem State.pinDir_threads (p : Pin) (d : Dir) :
    (s.pinDir p d).threads = s.threads := rfl
@[simp] theorem State.pinDir_script (p : Pin) (d : Dir) :
    (s.pinDir p d).script = s.script := rfl
@[simp] theorem State.pinDir_tick (p : Pin) (d : Dir) :
    (s.pinDir p d).tick = s.tick := rfl
@[simp] theorem State.pinDir_commits (p : Pin) (d : Dir) :
    (s.pinDir p d).commits = s.commits := rfl
@[simp] theorem State.pinDir_choice (p : Pin) (d : Dir) : (s.pinDir p d).choice = s.choice := rfl
@[simp] theorem State.pinDir_caller (p : Pin) (d : Dir) : (s.pinDir p d).caller = s.caller := rfl

/-! ### commit -/

@[simp] theorem State.commit_cfg (ps : PwmState) :
    (s.commit ps).cfg = s.cfg := rfl
@[simp] theorem State.commit_disp (ps : PwmState) :
    (s.commit ps).disp = s.disp := rfl
@[simp] theorem State.commit_sw (ps : PwmState) :
    (s.commit ps).sw = s.sw := rfl
@[simp] theorem State.commit_echo (ps : PwmState) :
    (s.commit ps).echo = s.echo := rfl
@[simp] theorem State.commit_pwm (ps : PwmState) :
    (s.commit ps).pwm = { s.pwm with out := if s.choice.accept then ps else s.pwm.out } := rfl
@[simp] theorem State.commit_mem (ps : PwmState) :
    (s.commit ps).mem = s.mem := rfl
@[simp] theorem State.commit_pins (ps : PwmState) :
    (s.commit ps).pins = s.pins := rfl
@[simp] theorem State.commit_ext (ps : PwmState) :
    (s.commit ps).ext = s.ext := rfl
@[simp] theorem State.commit_tau (ps : PwmState) :
    (s.commit ps).tau = s.tau := rfl
@[simp] theorem State.commit_threads (ps : PwmState) :
    (s.commit ps).threads = s.threads := rfl
@[simp] theorem State.commit_script (ps : PwmState) :
    (s.commit ps).script = s.script := rfl
@[simp] theorem State.commit_tick (ps : PwmState) :
    (s.commit ps).tick = s.tick := rfl
@[simp] theorem State.commit_commits (ps : PwmState) :
    (s.commit ps).commits = s.commits + 1 := rfl
@[simp] theorem State.commit_choice (ps : PwmState) : (s.commit ps).choice = s.choice := rfl
@[simp] theorem State.commit_caller (ps : PwmState) : (s.commit ps).caller = s.caller := rfl

/-! ### rfGo -/

@[simp] theorem State.rfGo_cfg (pc : RfPc) :
    (s.rfGo pc).cfg = s.cfg := rfl
@[simp] theorem State.rfGo_disp (pc : RfPc) :
    (s.rfGo pc).disp = { s.disp with pc := pc } := rfl
@[simp] theorem State.rfGo_sw (pc : RfPc) :
    (s.rfGo pc).sw = s.sw := rfl
@[simp] theorem State.rfGo_echo (pc : RfPc) :
    (s.rfGo pc).echo = s.echo := rfl
@[simp] theorem State.rfGo_pwm (pc : RfPc) :
    (s.rfGo pc).pwm = s.pwm := rfl
@[simp] theorem State.rfGo_mem (pc : RfPc) :
    (s.rfGo pc).mem = s.mem := rfl
@[simp] theorem State.rfGo_pins (pc : RfPc) :
    (s.rfGo pc).pins = s.pins := rfl
@[simp] theorem State.rfGo_ext (pc : RfPc) :
    (s.rfGo pc).ext = s.ext := rfl
@[simp] theorem State.rfGo_tau (pc : RfPc) :
    (s.rfGo pc).tau = s.tau := rfl
@[simp] theorem State.rfGo_threads (pc : RfPc) :
    (s.rfGo pc).threads = s.threads := rfl
@[simp] theorem State.rfGo_script (pc : RfPc) :
    (s.rfGo pc).script = s.script := rfl
@[simp] theorem State.rfGo_tick (pc : RfPc) :
    (s.rfGo pc).tick = s.tick := rfl
@[simp] theorem State.rfGo_commits (pc : RfPc) :
    (s.rfGo pc).commits = s.commits := rfl
@[simp] theorem State.rfGo_choice (pc : RfPc) : (s.rfGo pc).choice = s.choice := rfl
@[simp] theorem State.rfGo_caller (pc : RfPc) : (s.rfGo pc).caller = s.caller := rfl

/-! ### swGo -/

@[simp] theorem State.swGo_cfg (pc : SwPc) :
    (s.swGo pc).cfg = s.cfg := rfl
@[simp] theorem State.swGo_disp (pc : SwPc) :
    (s.swGo pc).disp = s.disp := rfl
@[simp] theorem State.swGo_sw (pc : SwPc) :
    (s.swGo pc).sw = { s.sw with pc := pc } := rfl
@[simp] theorem State.swGo_echo (pc : SwPc) :
    (s.swGo pc).echo = s.echo := rfl
@[simp] theorem State.swGo_pwm (pc : SwPc) :
    (s.swGo pc).pwm = s.pwm := rfl
@[simp] theorem State.swGo_mem (pc : SwPc) :
    (s.swGo pc).mem = s.mem := rfl
@[simp] theorem State.swGo_pins (pc : SwPc) :
    (s.swGo pc).pins = s.pins := rfl
@[simp] theorem State.swGo_ext (pc : SwPc) :
    (s.swGo pc).ext = s.ext := rfl
@[simp] theorem State.swGo_tau (pc : SwPc) :
    (s.swGo pc).tau = s.tau := rfl
@[simp] theorem State.swGo_threads (pc : SwPc) :
    (s.swGo pc).threads = s.threads := rfl
@[simp] theorem State.swGo_script (pc : SwPc) :
    (s.swGo pc).script = s.script := rfl
@[simp] theorem State.swGo_tick (pc : SwPc) :
    (s.swGo pc).tick = s.tick := rfl
@[simp] theorem State.swGo_commits (pc : SwPc) :
    (s.swGo pc).commits = s.commits := rfl
@[simp] theorem State.swGo_choice (pc : SwPc) : (s.swGo pc).choice = s.choice := rfl
@[simp] theorem State.swGo_caller (pc : SwPc) : (s.swGo pc).caller = s.caller := rfl

/-! ### ecGo -/

@[simp] theorem State.ecGo_cfg (pc : EcPc) :
    (s.ecGo pc).cfg = s.cfg := rfl
@[simp] theorem State.ecGo_disp (pc : EcPc) :
    (s.ecGo pc).disp = s.disp := rfl
@[simp] theorem State.ecGo_sw (pc : EcPc) :
    (s.ecGo pc).sw = s.sw := rfl
@[simp] theorem State.ecGo_echo (pc : EcPc) :
    (s.ecGo pc).echo = { s.echo with pc := pc } := rfl
@[simp] theorem State.ecGo_pwm (pc : EcPc) :
    (s.ecGo pc).pwm = s.pwm := rfl
@[simp] theorem State.ecGo_mem (pc : EcPc) :
    (s.ecGo pc).mem = s.mem := rfl
@[simp] theorem State.ecGo_pins (pc : EcPc) :
    (s.ecGo pc).pins = s.pins := rfl
@[simp] theorem State.ecGo_ext (pc : EcPc) :
    (s.ecGo pc).ext = s.ext := rfl
@[simp] theorem State.ecGo_tau (pc : EcPc) :
    (s.ecGo pc).tau = s.tau := rfl
@[simp] theorem State.ecGo_threads (pc : EcPc) :
    (s.ecGo pc).threads = s.threads := rfl
@[simp] theorem State.ecGo_script (pc : EcPc) :
    (s.ecGo pc).script = s.script := rfl
@[simp] theorem State.ecGo_tick (pc : EcPc) :
    (s.ecGo pc).tick = s.tick := rfl
@[simp] theorem State.ecGo_commits (pc : EcPc) :
    (s.ecGo pc).commits = s.commits := rfl
@[simp] theorem State.ecGo_choice (pc : EcPc) : (s.ecGo pc).choice = s.choice := rfl
@[simp] theorem State.ecGo_caller (pc : EcPc) : (s.ecGo pc).caller = s.caller := rfl

/-! ### popCall -/

@[simp] theorem State.popCall_cfg (k : Nat) :
    (s.popCall k).cfg = s.cfg := rfl
@[simp] theorem State.popCall_disp (k : Nat) :
    (s.popCall k).disp = s.disp := rfl
@[simp] theorem State.popCall_sw (k : Nat) :
    (s.popCall k).sw = s.sw := rfl
@[simp] theorem State.popCall_echo (k : Nat) :
    (s.popCall k).echo = s.echo := rfl
@[simp] theorem State.popCall_pwm (k : Nat) :
    (s.popCall k).pwm = s.pwm := rfl
@[simp] theorem State.popCall_mem (k : Nat) :
    (s.popCall k).mem = s.mem := rfl
@[simp] theorem State.popCall_pins (k : Nat) :
    (s.popCall k).pins = s.pins := rfl
@[simp] theorem State.popCall_ext (k : Nat) :
    (s.popCall k).ext = s.ext := rfl
@[simp] theorem State.popCall_tau (k : Nat) :
    (s.popCall k).tau = s.tau := rfl
@[simp] theorem State.popCall_threads (k : Nat) :
    (s.popCall k).threads = s.threads.modify k fun th => { th with calls := th.calls.tail } := rfl
@[simp] theorem State.popCall_script (k : Nat) :
    (s.popCall k).script = s.script := rfl
@[simp] theorem State.popCall_tick (k : Nat) :
    (s.popCall k).tick = s.tick := rfl
@[simp] theorem State.popCall_commits (k : Nat) :
    (s.popCall k).commits = s.commits := rfl
@[simp] theorem State.popCall_choice (k : Nat) : (s.popCall k).choice = s.choice := rfl
@[simp] theorem State.popCall_caller (k : Nat) : (s.popCall k).caller = s.caller := rfl

/-! ### spend -/

@[simp] theorem State.spend_cfg :
    (s.spend).cfg = s.cfg := rfl
@[simp] theorem State.spend_disp :
    (s.spend).disp = s.disp := rfl
@[simp] theorem State.spend_sw :
    (s.spend).sw = s.sw := rfl
@[simp] theorem State.spend_echo :
    (s.spend).echo = s.echo := rfl
@[simp] theorem State.spend_pwm :
    (s.spend).pwm = s.pwm := rfl
@[simp] theorem State.spend_mem :
    (s.spend).mem = s.mem := rfl
@[simp] theorem State.spend_pins :
    (s.spend).pins = s.pins := rfl
@[simp] theorem State.spend_ext :
    (s.spend).ext = s.ext := rfl
@[simp] theorem State.spend_tau :
    (s.spend).tau = s.tau := rfl
@[simp] theorem State.spend_threads :
    (s.spend).threads = s.threads := rfl
@[simp] theorem State.spend_script :
    (s.spend).script = s.script.tail := rfl
@[simp] theorem State.spend_tick :
    (s.spend).tick = s.tick + 1 := rfl
@[simp] theorem State.spend_commits :
    (s.spend).commits = s.commits := rfl

/-! ### goIdle and raise -/

@[simp] theorem State.goIdle_cfg (e : Engine) : (s.goIdle e).cfg = s.cfg := by
  cases e <;> rfl
@[simp] theorem State.raise_cfg (e : Engine) (r : Return) : (s.raise e r).cfg = s.cfg := by
  cases e <;> rfl
@[simp] theorem State.goIdle_disp (e : Engine) : (s.goIdle e).disp = s.disp := by
  cases e <;> rfl
@[simp] theorem State.raise_disp (e : Engine) (r : Return) : (s.raise e r).disp = s.disp := by
  cases e <;> rfl
@[simp] theorem State.goIdle_pwm (e : Engine) : (s.goIdle e).pwm = s.pwm := by
  cases e <;> rfl
@[simp] theorem State.raise_pwm (e : Engine) (r : Return) : (s.raise e r).pwm = s.pwm := by
  cases e <;> rfl
@[simp] theorem State.goIdle_mem (e : Engine) : (s.goIdle e).mem = s.mem := by
  cases e <;> rfl
@[simp] theorem State.raise_mem (e : Engine) (r : Return) : (s.raise e r).mem = s.mem := by
  cases e <;> rfl
@[simp] theorem State.goIdle_pins (e : Engine) : (s.goIdle e).pins = s.pins := by
  cases e <;> rfl
@[simp] theorem State.raise_pins (e : Engine) (r : Return) : (s.raise e r).pins = s.pins := by
  cases e <;> rfl
@[simp] theorem State.goIdle_ext (e : Engine) : (s.goIdle e).ext = s.ext := by
  cases e <;> rfl
@[simp] theorem State.raise_ext (e : Engine) (r : Return) : (s.raise e r).ext = s.ext := by
  cases e <;> rfl
@[simp] theorem State.goIdle_tau (e : Engine) : (s.goIdle e).tau = s.tau := by
  cases e <;> rfl
@[simp] theorem State.raise_tau (e : Engine) (r : Return) : (s.raise e r).tau = s.tau := by
  cases e <;> rfl
@[simp] theorem State.goIdle_threads (e : Engine) : (s.goIdle e).threads = s.threads := by
  cases e <;> rfl
@[simp] theorem State.goIdle_script (e : Engine) : (s.goIdle e).script = s.script := by
  cases e <;> rfl
@[simp] theorem State.raise_script (e : Engine) (r : Return) : (s.raise e r).script = s.script := by
  cases e <;> rfl
@[simp] theorem State.goIdle_tick (e : Engine) : (s.goIdle e).tick = s.tick := by
  cases e <;> rfl
@[simp] theorem State.raise_tick (e : Engine) (r : Return) : (s.raise e r).tick = s.tick := by
  cases e <;> rfl
@[simp] theorem State.goIdle_commits (e : Engine) : (s.goIdle e).commits = s.commits := by
  cases e <;> rfl
@[simp] theorem State.raise_commits (e : Engine) (r : Return) : (s.raise e r).commits = s.commits := by
  cases e <;> rfl
@[simp] theorem State.goIdle_choice (e : Engine) : (s.goIdle e).choice = s.choice := by
  cases e <;> rfl
@[simp] theorem State.goIdle_caller (e : Engine) : (s.goIdle e).caller = s.caller := by
  cases e <;> rfl
@[simp] theorem State.raise_threads (e : Engine) (r : Return) :
    (s.raise e r).threads = s.threads.modify s.caller
      fun th => { th with act := .idle, reply := .direct, ret := some (th.reply.answer r) } := by
  cases e <;> rfl
@[simp] theorem State.raise_sw_other (r : Return) : (s.raise .pwm r).sw = s.sw := rfl
@[simp] theorem State.raise_echo_other (r : Return) : (s.raise .pwm r).echo = s.echo := rfl
@[simp] theorem State.raise_sw_sw (r : Return) : (s.raise .sw r).sw = { s.sw with pc := .idle } := rfl
@[simp] theorem State.raise_sw_echo (r : Return) : (s.raise .sw r).echo = s.echo := rfl
@[simp] theorem State.raise_echo_echo (r : Return) : (s.raise .echo r).echo = { s.echo with pc := .idle } := rfl
@[simp] theorem State.raise_echo_sw (r : Return) : (s.raise .echo r).sw = s.sw := rfl

end Sys2Proof.Machine
end

