-- ==== Sys2Proof/Laws/Ops.lean ====
section
/-! SUPPORT. What each shared operation can do, once each: memory, pins, delays, the poll, the collaborator, the return, and what one
step can be. -/

namespace Sys2Proof.Machine

/-! ## Memory (20_memory.md R61) -/

/-- Every address of the list is above `a`. -/
theorem Memory.read_of_all_gt (m : List Host.Cell) (a : Nat) (h : ∀ c ∈ m, a < c.1) : Memory.read m a = 0 := by
  induction m with
  | nil => rfl
  | cons c m ih =>
    have hc : a < c.1 := h c (by simp)
    simp [Memory.read, Nat.ne_of_gt hc, ih fun d hd => h d (by simp [hd])]

theorem Memory.rising_cons {c : Host.Cell} {m : List Host.Cell} (h : Memory.rising (c :: m) = true) :
    Memory.rising m = true ∧ ∀ d ∈ m, c.1 < d.1 := by
  induction m generalizing c with
  | nil => simp [Memory.rising]
  | cons d m ih =>
    simp only [Memory.rising, Bool.and_eq_true, decide_eq_true_eq] at h
    refine ⟨h.2, fun e he => ?_⟩
    rcases List.mem_cons.mp he with rfl | he
    · exact h.1
    · exact lt_trans h.1 ((ih h.2).2 e he)

/-- A byte written is read back, and every other byte is as it was. -/
theorem Memory.read_write (m : List Host.Cell) (a b : Nat) (v : Byte) (h : Memory.rising m = true) :
    Memory.read (Memory.write m a v) b = if a = b then v else Memory.read m b := by
  induction m with
  | nil =>
    simp only [Memory.write]
    split
    · next hv => simp [Memory.read, hv]
    · simp [Memory.read]
  | cons c m ih =>
    obtain ⟨hr, hall⟩ := Memory.rising_cons h
    obtain ⟨x, w⟩ := c
    simp only [Memory.write]
    split
    · next hlt =>
      have h0 : Memory.read ((x, w) :: m) a = 0 :=
        Memory.read_of_all_gt _ _ fun d hd => by
          rcases List.mem_cons.mp hd with rfl | hd
          · exact hlt
          · exact lt_trans hlt (hall d hd)
      split
      · next hv =>
        split
        · next hab => rw [← hab, h0, hv]
        · rfl
      · simp [Memory.read]
    · split
      · next hax =>
        subst hax
        have h0 : Memory.read m a = 0 := Memory.read_of_all_gt _ _ fun d hd => hall d hd
        split
        · next hv =>
          by_cases hab : a = b
          · rw [if_pos hab, ← hab, h0, hv]
          · simp [Memory.read, hab]
        · by_cases hab : a = b <;> simp [Memory.read, hab]
      · next hax =>
        by_cases hxb : x = b
        · subst hxb; simp [Memory.read, hax]
        · simp [Memory.read, hxb, ih hr]

theorem Memory.mem_write {m : List Host.Cell} {a : Nat} {v : Byte} {c : Host.Cell}
    (h : c ∈ Memory.write m a v) : (c = (a, v) ∧ v ≠ 0) ∨ c ∈ m := by
  induction m with
  | nil =>
    simp only [Memory.write] at h
    split at h
    · cases h
    · next hv => exact .inl ⟨by simpa using h, hv⟩
  | cons d m ih =>
    simp only [Memory.write] at h
    repeat' split at h
    all_goals first
      | exact .inr h
      | (next hv => rcases List.mem_cons.mp h with rfl | h
                    · exact .inl ⟨rfl, hv⟩
                    · exact .inr h)
      | exact .inr (List.mem_cons_of_mem _ h)
      | (next hv => rcases List.mem_cons.mp h with rfl | h
                    · exact .inl ⟨rfl, hv⟩
                    · exact .inr (List.mem_cons_of_mem _ h))
      | (rcases List.mem_cons.mp h with rfl | h
         · exact .inr (by simp)
         · rcases ih h with h | h
           · exact .inl h
           · exact .inr (List.mem_cons_of_mem _ h))

theorem Memory.rising_of_cons {c : Host.Cell} {m : List Host.Cell} (hr : Memory.rising m = true)
    (h : ∀ d ∈ m, c.1 < d.1) : Memory.rising (c :: m) = true := by
  cases m with
  | nil => rfl
  | cons d m => simp [Memory.rising, hr, h d (by simp)]

theorem Memory.rising_write (m : List Host.Cell) (a : Nat) (v : Byte) (h : Memory.rising m = true) :
    Memory.rising (Memory.write m a v) = true := by
  induction m with
  | nil =>
    simp only [Memory.write]
    split <;> rfl
  | cons c m ih =>
    obtain ⟨hr, hall⟩ := Memory.rising_cons h
    simp only [Memory.write]
    split
    · next hlt =>
      split
      · exact h
      · refine Memory.rising_of_cons h fun d hd => ?_
        rcases List.mem_cons.mp hd with rfl | hd
        · exact hlt
        · exact lt_trans hlt (hall d hd)
    · split
      · next hax =>
        split
        · exact hr
        · exact Memory.rising_of_cons hr fun d hd => by simpa [hax] using hall d hd
      · refine Memory.rising_of_cons (ih hr) fun d hd => ?_
        rcases Memory.mem_write hd with ⟨rfl, -⟩ | hd
        · simp; omega
        · exact hall d hd

/-- A write keeps the canonical form. -/
theorem Memory.wf_write (m : List Host.Cell) (a : Nat) (v : Byte) (ha : a < 2) (h : Memory.wf m = true) :
    Memory.wf (Memory.write m a v) = true := by
  simp only [Memory.wf, Bool.and_eq_true, List.all_eq_true, bne_iff_ne, decide_eq_true_eq] at h ⊢
  refine ⟨Memory.rising_write _ _ _ h.1, fun c hc => ?_⟩
  rcases Memory.mem_write hc with ⟨rfl, hv⟩ | hc
  · exact ⟨ha, hv⟩
  · exact h.2 c hc

theorem Memory.rising_of_wf {m : List Host.Cell} (h : Memory.wf m = true) : Memory.rising m = true := by
  simp only [Memory.wf, Bool.and_eq_true] at h
  exact h.1

/-- What `memRead` answers. -/
theorem memRead_eq_ok {a n : Nat} {s : State} {v : Byte} (h : memRead a n s = .ok v) :
    a < 2 ∧ n = 1 ∧ v = Memory.read s.mem a := by
  unfold memRead at h
  split at h
  · next hc => exact ⟨hc.1, hc.2, (Except.ok.inj h).symm⟩
  · cases h

@[simp] theorem memRead_one {a : Nat} (s : State) (h : a < 2) : memRead a 1 s = .ok (Memory.read s.mem a) := by
  simp [memRead, h]

@[simp] theorem memWrite_one {a : Nat} (v : Nat) (s : State) (h : a < 2) :
    memWrite a 1 v s = .ok { s with mem := Memory.write s.mem a (BitVec.ofNat 8 v) } := by
  simp [memWrite, h]

@[simp] theorem continueWith_ok {α : Type} (x : α) (f : α → Host.Outcome State Fault Refusal) :
    continueWith (.ok x) f = f x := rfl

@[simp] theorem digitAddr_lt (h : Half) : digitAddr h < 2 := by cases h <;> decide

/-! ## Pins (20_memory.md R67 to R69) -/

@[simp] theorem Pins.get_set_same (ps : Pins) (p : Pin) (h : PinHandle) : (ps.set p h).get p = h := by
  cases p <;> rfl

theorem Pins.get_set_ne (ps : Pins) (p q : Pin) (h : PinHandle) (hne : q ≠ p) : (ps.set p h).get q = ps.get q := by
  cases p <;> cases q <;> first | rfl | exact absurd rfl hne

@[simp] theorem PinHandle.write_dir (h : PinHandle) (v : Level) : (h.write v).dir = h.dir := rfl
@[simp] theorem PinHandle.write_out (h : PinHandle) (v : Level) : (h.write v).out = v := rfl
@[simp] theorem PinHandle.turn_dir (h : PinHandle) (d : Dir) : (h.turn d).dir = d := rfl
@[simp] theorem PinHandle.turn_out (h : PinHandle) (d : Dir) : (h.turn d).out = h.out := rfl

theorem PinHandle.write_line (h : PinHandle) (v : Level) (hd : h.dir = .output) : (h.write v).line = v := by
  simp [PinHandle.write, hd]

theorem PinHandle.turn_output_line (h : PinHandle) : (h.turn .output).line = h.out := by
  simp [PinHandle.turn]

/-- The external register is untouched when neither the clock nor the latch line changes. -/
theorem Ext.react_of_same (e : Ext) (before after : Pins) (hc : after.clk.line = before.clk.line)
    (hl : after.latch.line = before.latch.line) : e.react before after = e := by
  simp [Ext.react, PinHandle.rises, hc, hl]

/-! ## Delays and the poll (60_exceptions.md R231, 41_singlewire.md R140) -/

theorem delayTurn_starts {n tau : Nat} {wake : Option Nat} {w : Nat} (h : delayTurn n tau wake = .starts w) :
    wake = none ∧ w = tau + n := by
  unfold delayTurn at h
  split at h
  · exact ⟨rfl, (DelayTurn.starts.inj h).symm⟩
  · split at h <;> cases h

theorem delayTurn_over {n tau : Nat} {wake : Option Nat} (h : delayTurn n tau wake = .over) :
    ∃ w, wake = some w ∧ w ≤ tau := by
  unfold delayTurn at h
  split at h
  · cases h
  · next w => split at h
              · next hw => exact ⟨w, rfl, hw⟩
              · cases h

theorem delayTurn_held {n tau : Nat} {wake : Option Nat} (h : delayTurn n tau wake = .held) :
    ∃ w, wake = some w ∧ tau < w := by
  unfold delayTurn at h
  split at h
  · cases h
  · next w => split at h
              · cases h
              · next hw => exact ⟨w, rfl, by omega⟩

theorem waitTurn_done {level : Level} {T now d : Nat} {line : Level} {w w' : WaitLocals} {sub : WaitSub}
    (h : waitTurn level T line now w sub = .done d w') :
    sub = .c ∧ w.l = level ∧ d = now - w.t0 ∧ w' = { w with t := now } := by
  cases sub <;> simp only [waitTurn] at h
  · cases h
  · cases h
  · split at h
    · next hl => injection h with h1 h2; exact ⟨rfl, hl, h1.symm, h2.symm⟩
    · split at h <;> cases h

theorem waitTurn_timeout {level : Level} {T now : Nat} {line : Level} {w w' : WaitLocals} {sub : WaitSub}
    (h : waitTurn level T line now w sub = .timeout w') :
    sub = .c ∧ w.l ≠ level ∧ T < now - w.t0 ∧ w' = { w with t := now } := by
  cases sub <;> simp only [waitTurn] at h
  · cases h
  · cases h
  · split at h
    · cases h
    · next hl => split at h
                 · next ht => injection h with h1; exact ⟨rfl, hl, ht, h1.symm⟩
                 · cases h

/-- The bit index above 0 goes down by one (40_display.md R122). -/
theorem bit_pred {b : Fin shiftBits} (h : b ≠ 0) : b.val = (b - 1).val + 1 := by
  revert b; decide

/-! ## Steps -/

@[simp] theorem mapNext_next (f : State → State) (s : State) : mapNext f (.next s) = .next (f s) := rfl
@[simp] theorem mapNext_refused (f : State → State) (r : Refusal) : mapNext f (.refused r) = .refused r := rfl

/-- What a next state of one step is: the agent's turn, and the choice spent. -/
theorem step_eq_next {s t : State} (h : step s = .next t) :
    ∃ u, agentTurn s.choice.agent s = .next u ∧ t = u.spend := by
  unfold step at h
  cases ho : agentTurn s.choice.agent s with
  | next u => rw [ho] at h; exact ⟨u, rfl, by simpa using h.symm⟩
  | fault r => cases r
  | refused r => rw [ho] at h; cases h

theorem caller_of_host {s : State} {k : Nat} (h : s.choice.agent = .host k) : s.caller = k := by
  simp [State.caller, h]

/-- A step governed by a listed choice. -/
theorem choice_cons {s : State} {c : Choice} {cs : List Choice} (h : s.script = c :: cs) : s.choice = c := by
  simp [State.choice, h]

end Sys2Proof.Machine
end

