-- ==== Sys2Proof/Laws/Callers.lean ====
section
/-! SUPPORT. What the shared operations over callers and memory come to, in the terms of Safety.lean (60_exceptions.md R223;
20_memory.md R61). -/

namespace Sys2Proof.Machine

/-- Whatever state has the threads of `giveBack r` shows its caller back with the answer to `r`. -/
theorem callerReturns_giveBack {s t : State} {r : Return} (h : t.threads = (s.giveBack r).threads) : s.callerReturns t r := by
  refine ⟨by simp [h, State.giveBack, State.updCaller], ?_, ?_⟩
  · intro j hj; simp [h, State.giveBack, State.updCaller, Ne.symm hj]
  · intro th hth; simp [h, State.giveBack, State.updCaller, hth]

/-- Whatever state has the threads of `enter a` shows its caller inside of `a`. -/
theorem callerEnters_enter {s t : State} {a : Activity} (h : t.threads = (s.enter a).threads) : s.callerEnters t a := by
  refine ⟨by simp [h, State.enter, State.updCaller], ?_, ?_⟩
  · intro j hj; simp [h, State.enter, State.updCaller, Ne.symm hj]
  · intro th hth; simp [h, State.enter, State.updCaller, hth]

/-- A write that is admitted changes its one byte and nothing else. -/
theorem memWrite_eq_ok {a n v : Nat} {s t : State} (h : memWrite a n v s = .ok t) :
    a < 2 ∧ n = 1 ∧ t = { s with mem := Memory.write s.mem a (BitVec.ofNat 8 v) } := by
  unfold memWrite at h
  split at h
  · rename_i hc
    cases h
    exact ⟨hc.1, hc.2, rfl⟩
  · cases h

end Sys2Proof.Machine
end

