-- ==== Sys2Proof/Laws/CharIf.lean ====
section
/-! SUPPORT. What the digits of a PWM write parse to (44_charif.md R211). -/

namespace Sys2Proof.Machine

theorem isDigit_iff {b : Byte} : isDigit b = true ↔ 0x30 ≤ b.toNat ∧ b.toNat ≤ 0x39 := by simp [isDigit]

theorem digitOf_toNat {b : Byte} (h : isDigit b = true) : (digitOf b).toNat = b.toNat - 0x30 := by
  rw [isDigit_iff] at h
  have : (0x30 : Byte) ≤ b := by rw [BitVec.le_def]; exact h.1
  rw [digitOf, BitVec.toNat_sub_of_le this]
  rfl

/-- What the digits of a number parse to: one digit at least (here or before), an accepted line feed or nothing after them
(44_charif.md R211). -/
theorem parseDigits_eq_some {lf : Bool} (bs : List Byte) : ∀ (acc : Nat) (seen : Bool) (n : Nat),
    parseDigits lf bs acc seen = some n ↔ ∃ digits tail : List Byte, bs = digits ++ tail ∧ (seen = true ∨ digits ≠ []) ∧
      (∀ b ∈ digits, isDigit b = true) ∧ (tail = [] ∨ tail = [0x0A] ∧ lf = true) ∧
      n = digits.foldl (fun v b => v * 10 + (b.toNat - 0x30)) acc := by
  induction bs with
  | nil =>
    intro acc seen n
    simp only [parseDigits]
    constructor
    · intro h
      split at h
      · next hs => cases h; exact ⟨[], [], rfl, .inl hs, by simp, .inl rfl, rfl⟩
      · cases h
    · rintro ⟨d, t, h, hs, -, -, rfl⟩
      obtain ⟨rfl, rfl⟩ := List.append_eq_nil_iff.mp h.symm
      simpa using hs
  | cons b rest ih =>
    intro acc seen n
    simp only [parseDigits]
    by_cases hb : isDigit b = true
    · rw [if_pos hb, ih]
      constructor
      · rintro ⟨d, t, rfl, -, hd, ht, rfl⟩
        exact ⟨b :: d, t, rfl, .inr (by simp), by simpa [hb] using hd, ht, by simp [digitOf_toNat hb]⟩
      · rintro ⟨d, t, h, -, hd, ht, rfl⟩
        cases d with
        | nil =>
          rcases ht with rfl | ⟨rfl, -⟩
          · cases h
          · cases h; exact absurd hb (by decide)
        | cons c d =>
          simp only [List.cons_append, List.cons.injEq] at h
          obtain ⟨rfl, rfl⟩ := h
          exact ⟨d, t, rfl, .inl rfl, fun x hx => hd x (by simp [hx]), ht, by simp [digitOf_toNat hb]⟩
    · rw [if_neg hb]
      constructor
      · intro h
        split at h
        · next hc =>
          cases h
          obtain ⟨rfl, hl, hs, rfl⟩ := hc
          exact ⟨[], [0x0A], rfl, .inl hs, by simp, .inr ⟨rfl, hl⟩, rfl⟩
        · cases h
      · rintro ⟨d, t, h, hs, hd, ht, rfl⟩
        cases d with
        | cons c d => cases h; exact absurd (hd b (by simp)) hb
        | nil =>
          rcases ht with rfl | ⟨rfl, hl⟩
          · cases h
          · cases h
            simpa [hl] using hs

end Sys2Proof.Machine
end

