-- ==== Sys2Proof/Laws/Frames.lean ====
section
/-! SUPPORT. What the turn of each agent leaves unchanged (10_state.md R20; 20_memory.md R74). -/

namespace Sys2Proof.Machine

variable {s t : State}

/-- A pin other than the clock and the latch leaves the external register alone. -/
theorem Ext.react_set_other (e : Ext) (ps : Pins) (p : Pin) (h : PinHandle) (hc : p ≠ .clk) (hl : p ≠ .latch) :
    e.react ps (ps.set p h) = e := by
  cases p <;> first | exact absurd rfl hc | exact absurd rfl hl | (apply Ext.react_of_same <;> rfl)

/-! ## A turn inside of `SW_MEASURE` -/

@[simp] theorem swStartDelay_cfg (s : State) : (swStartDelay s).cfg = s.cfg := by
  unfold swStartDelay
  split <;> rfl

@[simp] theorem swStartDelay_pwm (s : State) : (swStartDelay s).pwm = s.pwm := by
  unfold swStartDelay
  split <;> rfl

@[simp] theorem swStartDelay_mem (s : State) : (swStartDelay s).mem = s.mem := by
  unfold swStartDelay
  split <;> rfl

@[simp] theorem swStartDelay_tau (s : State) : (swStartDelay s).tau = s.tau := by
  unfold swStartDelay
  split <;> rfl

@[simp] theorem swStartDelay_script (s : State) : (swStartDelay s).script = s.script := by
  unfold swStartDelay
  split <;> rfl

@[simp] theorem swStartDelay_tick (s : State) : (swStartDelay s).tick = s.tick := by
  unfold swStartDelay
  split <;> rfl

@[simp] theorem swStartDelay_commits (s : State) : (swStartDelay s).commits = s.commits := by
  unfold swStartDelay
  split <;> rfl

@[simp] theorem swStartDelay_disp (s : State) : (swStartDelay s).disp = s.disp := by
  unfold swStartDelay
  split <;> rfl

@[simp] theorem swStartDelay_echo (s : State) : (swStartDelay s).echo = s.echo := by
  unfold swStartDelay
  split <;> rfl

@[simp] theorem swStartDelay_pins (s : State) : (swStartDelay s).pins = s.pins := by
  unfold swStartDelay
  split <;> rfl

@[simp] theorem swStartDelay_ext (s : State) : (swStartDelay s).ext = s.ext := by
  unfold swStartDelay
  split <;> rfl

@[simp] theorem swStartDelay_threads (s : State) : (swStartDelay s).threads = s.threads := by
  unfold swStartDelay
  split <;> rfl

@[simp] theorem swDone_cfg (s : State) (st : SwWait) (d : Nat) : (swDone st d s).cfg = s.cfg := by
  cases st <;> rfl

@[simp] theorem swDone_pwm (s : State) (st : SwWait) (d : Nat) : (swDone st d s).pwm = s.pwm := by
  cases st <;> rfl

@[simp] theorem swDone_mem (s : State) (st : SwWait) (d : Nat) : (swDone st d s).mem = s.mem := by
  cases st <;> rfl

@[simp] theorem swDone_tau (s : State) (st : SwWait) (d : Nat) : (swDone st d s).tau = s.tau := by
  cases st <;> rfl

@[simp] theorem swDone_script (s : State) (st : SwWait) (d : Nat) : (swDone st d s).script = s.script := by
  cases st <;> rfl

@[simp] theorem swDone_tick (s : State) (st : SwWait) (d : Nat) : (swDone st d s).tick = s.tick := by
  cases st <;> rfl

@[simp] theorem swDone_commits (s : State) (st : SwWait) (d : Nat) : (swDone st d s).commits = s.commits := by
  cases st <;> rfl

@[simp] theorem swDone_disp (s : State) (st : SwWait) (d : Nat) : (swDone st d s).disp = s.disp := by
  cases st <;> rfl

@[simp] theorem swDone_echo (s : State) (st : SwWait) (d : Nat) : (swDone st d s).echo = s.echo := by
  cases st <;> rfl

@[simp] theorem swDone_pins (s : State) (st : SwWait) (d : Nat) : (swDone st d s).pins = s.pins := by
  cases st <;> rfl

@[simp] theorem swDone_ext (s : State) (st : SwWait) (d : Nat) : (swDone st d s).ext = s.ext := by
  cases st <;> rfl

@[simp] theorem swDone_threads (s : State) (st : SwWait) (d : Nat) : (swDone st d s).threads = s.threads := by
  cases st <;> rfl

@[simp] theorem swAbort_cfg (s : State) : (swAbort s).cfg = s.cfg := by
  rfl

@[simp] theorem swAbort_pwm (s : State) : (swAbort s).pwm = s.pwm := by
  rfl

@[simp] theorem swAbort_mem (s : State) : (swAbort s).mem = s.mem := by
  rfl

@[simp] theorem swAbort_tau (s : State) : (swAbort s).tau = s.tau := by
  rfl

@[simp] theorem swAbort_script (s : State) : (swAbort s).script = s.script := by
  rfl

@[simp] theorem swAbort_tick (s : State) : (swAbort s).tick = s.tick := by
  rfl

@[simp] theorem swAbort_commits (s : State) : (swAbort s).commits = s.commits := by
  rfl

@[simp] theorem swAbort_disp (s : State) : (swAbort s).disp = s.disp := by
  rfl

@[simp] theorem swAbort_echo (s : State) : (swAbort s).echo = s.echo := by
  rfl

@[simp] theorem swAbort_pins (s : State) : (swAbort s).pins = s.pins := by
  rfl

@[simp] theorem swAbort_ext (s : State) : (swAbort s).ext = s.ext := by
  rfl

@[simp] theorem swCheck_cfg (s : State) : (swCheck s).cfg = s.cfg := by
  rfl

@[simp] theorem swCheck_pwm (s : State) : (swCheck s).pwm = s.pwm := by
  rfl

@[simp] theorem swCheck_mem (s : State) : (swCheck s).mem = s.mem := by
  rfl

@[simp] theorem swCheck_tau (s : State) : (swCheck s).tau = s.tau := by
  rfl

@[simp] theorem swCheck_script (s : State) : (swCheck s).script = s.script := by
  rfl

@[simp] theorem swCheck_tick (s : State) : (swCheck s).tick = s.tick := by
  rfl

@[simp] theorem swCheck_commits (s : State) : (swCheck s).commits = s.commits := by
  rfl

@[simp] theorem swCheck_disp (s : State) : (swCheck s).disp = s.disp := by
  rfl

@[simp] theorem swCheck_echo (s : State) : (swCheck s).echo = s.echo := by
  rfl

@[simp] theorem swCheck_pins (s : State) : (swCheck s).pins = s.pins := by
  rfl

@[simp] theorem swCheck_ext (s : State) : (swCheck s).ext = s.ext := by
  rfl

@[simp] theorem swWaitTurn_cfg (s : State) (st : SwWait) (sub : WaitSub) : (swWaitTurn st sub s).cfg = s.cfg := by
  unfold swWaitTurn
  split <;> simp

@[simp] theorem swWaitTurn_pwm (s : State) (st : SwWait) (sub : WaitSub) : (swWaitTurn st sub s).pwm = s.pwm := by
  unfold swWaitTurn
  split <;> simp

@[simp] theorem swWaitTurn_mem (s : State) (st : SwWait) (sub : WaitSub) : (swWaitTurn st sub s).mem = s.mem := by
  unfold swWaitTurn
  split <;> simp

@[simp] theorem swWaitTurn_tau (s : State) (st : SwWait) (sub : WaitSub) : (swWaitTurn st sub s).tau = s.tau := by
  unfold swWaitTurn
  split <;> simp

@[simp] theorem swWaitTurn_script (s : State) (st : SwWait) (sub : WaitSub) : (swWaitTurn st sub s).script = s.script := by
  unfold swWaitTurn
  split <;> simp

@[simp] theorem swWaitTurn_tick (s : State) (st : SwWait) (sub : WaitSub) : (swWaitTurn st sub s).tick = s.tick := by
  unfold swWaitTurn
  split <;> simp

@[simp] theorem swWaitTurn_commits (s : State) (st : SwWait) (sub : WaitSub) : (swWaitTurn st sub s).commits = s.commits := by
  unfold swWaitTurn
  split <;> simp

@[simp] theorem swWaitTurn_disp (s : State) (st : SwWait) (sub : WaitSub) : (swWaitTurn st sub s).disp = s.disp := by
  unfold swWaitTurn
  split <;> simp

@[simp] theorem swWaitTurn_echo (s : State) (st : SwWait) (sub : WaitSub) : (swWaitTurn st sub s).echo = s.echo := by
  unfold swWaitTurn
  split <;> simp

@[simp] theorem swWaitTurn_pins (s : State) (st : SwWait) (sub : WaitSub) : (swWaitTurn st sub s).pins = s.pins := by
  unfold swWaitTurn
  split <;> simp

@[simp] theorem swWaitTurn_ext (s : State) (st : SwWait) (sub : WaitSub) : (swWaitTurn st sub s).ext = s.ext := by
  unfold swWaitTurn
  split <;> simp

@[simp] theorem swTurn_cfg (s : State) : (swTurn s).cfg = s.cfg := by
  unfold swTurn
  split <;> simp

@[simp] theorem swTurn_pwm (s : State) : (swTurn s).pwm = s.pwm := by
  unfold swTurn
  split <;> simp

@[simp] theorem swTurn_mem (s : State) : (swTurn s).mem = s.mem := by
  unfold swTurn
  split <;> simp

@[simp] theorem swTurn_tau (s : State) : (swTurn s).tau = s.tau := by
  unfold swTurn
  split <;> simp

@[simp] theorem swTurn_script (s : State) : (swTurn s).script = s.script := by
  unfold swTurn
  split <;> simp

@[simp] theorem swTurn_tick (s : State) : (swTurn s).tick = s.tick := by
  unfold swTurn
  split <;> simp

@[simp] theorem swTurn_commits (s : State) : (swTurn s).commits = s.commits := by
  unfold swTurn
  split <;> simp

@[simp] theorem swTurn_disp (s : State) : (swTurn s).disp = s.disp := by
  unfold swTurn
  split <;> simp

@[simp] theorem swTurn_echo (s : State) : (swTurn s).echo = s.echo := by
  unfold swTurn
  split <;> simp

theorem swTurn_pins (s : State) : ∃ h, (swTurn s).pins = s.pins.set .sw h := by
  unfold swTurn
  split <;> first | exact ⟨_, rfl⟩ | exact ⟨s.pins.sw, by simp [Pins.set]⟩

@[simp] theorem swTurn_ext (s : State) : (swTurn s).ext = s.ext := by
  unfold swTurn
  split <;> simp [Ext.react_set_other]

/-! ## A turn inside of `ECHO_MEASURE` -/

@[simp] theorem ecTrigDelay_cfg (s : State) : (ecTrigDelay s).cfg = s.cfg := by
  unfold ecTrigDelay
  split <;> rfl

@[simp] theorem ecTrigDelay_pwm (s : State) : (ecTrigDelay s).pwm = s.pwm := by
  unfold ecTrigDelay
  split <;> rfl

@[simp] theorem ecTrigDelay_mem (s : State) : (ecTrigDelay s).mem = s.mem := by
  unfold ecTrigDelay
  split <;> rfl

@[simp] theorem ecTrigDelay_tau (s : State) : (ecTrigDelay s).tau = s.tau := by
  unfold ecTrigDelay
  split <;> rfl

@[simp] theorem ecTrigDelay_script (s : State) : (ecTrigDelay s).script = s.script := by
  unfold ecTrigDelay
  split <;> rfl

@[simp] theorem ecTrigDelay_tick (s : State) : (ecTrigDelay s).tick = s.tick := by
  unfold ecTrigDelay
  split <;> rfl

@[simp] theorem ecTrigDelay_commits (s : State) : (ecTrigDelay s).commits = s.commits := by
  unfold ecTrigDelay
  split <;> rfl

@[simp] theorem ecTrigDelay_disp (s : State) : (ecTrigDelay s).disp = s.disp := by
  unfold ecTrigDelay
  split <;> rfl

@[simp] theorem ecTrigDelay_sw (s : State) : (ecTrigDelay s).sw = s.sw := by
  unfold ecTrigDelay
  split <;> rfl

@[simp] theorem ecTrigDelay_pins (s : State) : (ecTrigDelay s).pins = s.pins := by
  unfold ecTrigDelay
  split <;> rfl

@[simp] theorem ecTrigDelay_ext (s : State) : (ecTrigDelay s).ext = s.ext := by
  unfold ecTrigDelay
  split <;> rfl

@[simp] theorem ecTrigDelay_threads (s : State) : (ecTrigDelay s).threads = s.threads := by
  unfold ecTrigDelay
  split <;> rfl

@[simp] theorem ecDone_cfg (s : State) (st : EcWait) (d : Nat) : (ecDone st d s).cfg = s.cfg := by
  cases st <;> rfl

@[simp] theorem ecDone_pwm (s : State) (st : EcWait) (d : Nat) : (ecDone st d s).pwm = s.pwm := by
  cases st <;> rfl

@[simp] theorem ecDone_mem (s : State) (st : EcWait) (d : Nat) : (ecDone st d s).mem = s.mem := by
  cases st <;> rfl

@[simp] theorem ecDone_tau (s : State) (st : EcWait) (d : Nat) : (ecDone st d s).tau = s.tau := by
  cases st <;> rfl

@[simp] theorem ecDone_script (s : State) (st : EcWait) (d : Nat) : (ecDone st d s).script = s.script := by
  cases st <;> rfl

@[simp] theorem ecDone_tick (s : State) (st : EcWait) (d : Nat) : (ecDone st d s).tick = s.tick := by
  cases st <;> rfl

@[simp] theorem ecDone_commits (s : State) (st : EcWait) (d : Nat) : (ecDone st d s).commits = s.commits := by
  cases st <;> rfl

@[simp] theorem ecDone_disp (s : State) (st : EcWait) (d : Nat) : (ecDone st d s).disp = s.disp := by
  cases st <;> rfl

@[simp] theorem ecDone_sw (s : State) (st : EcWait) (d : Nat) : (ecDone st d s).sw = s.sw := by
  cases st <;> rfl

@[simp] theorem ecDone_pins (s : State) (st : EcWait) (d : Nat) : (ecDone st d s).pins = s.pins := by
  cases st <;> rfl

@[simp] theorem ecDone_ext (s : State) (st : EcWait) (d : Nat) : (ecDone st d s).ext = s.ext := by
  cases st <;> rfl

@[simp] theorem ecDone_threads (s : State) (st : EcWait) (d : Nat) : (ecDone st d s).threads = s.threads := by
  cases st <;> rfl

@[simp] theorem ecAbort_cfg (s : State) : (ecAbort s).cfg = s.cfg := by
  rfl

@[simp] theorem ecAbort_pwm (s : State) : (ecAbort s).pwm = s.pwm := by
  rfl

@[simp] theorem ecAbort_mem (s : State) : (ecAbort s).mem = s.mem := by
  rfl

@[simp] theorem ecAbort_tau (s : State) : (ecAbort s).tau = s.tau := by
  rfl

@[simp] theorem ecAbort_script (s : State) : (ecAbort s).script = s.script := by
  rfl

@[simp] theorem ecAbort_tick (s : State) : (ecAbort s).tick = s.tick := by
  rfl

@[simp] theorem ecAbort_commits (s : State) : (ecAbort s).commits = s.commits := by
  rfl

@[simp] theorem ecAbort_disp (s : State) : (ecAbort s).disp = s.disp := by
  rfl

@[simp] theorem ecAbort_sw (s : State) : (ecAbort s).sw = s.sw := by
  rfl

@[simp] theorem ecAbort_pins (s : State) : (ecAbort s).pins = s.pins := by
  rfl

@[simp] theorem ecAbort_ext (s : State) : (ecAbort s).ext = s.ext := by
  rfl

@[simp] theorem ecConvert_cfg (s : State) : (ecConvert s).cfg = s.cfg := by
  rfl

@[simp] theorem ecConvert_pwm (s : State) : (ecConvert s).pwm = s.pwm := by
  rfl

@[simp] theorem ecConvert_mem (s : State) : (ecConvert s).mem = s.mem := by
  rfl

@[simp] theorem ecConvert_tau (s : State) : (ecConvert s).tau = s.tau := by
  rfl

@[simp] theorem ecConvert_script (s : State) : (ecConvert s).script = s.script := by
  rfl

@[simp] theorem ecConvert_tick (s : State) : (ecConvert s).tick = s.tick := by
  rfl

@[simp] theorem ecConvert_commits (s : State) : (ecConvert s).commits = s.commits := by
  rfl

@[simp] theorem ecConvert_disp (s : State) : (ecConvert s).disp = s.disp := by
  rfl

@[simp] theorem ecConvert_sw (s : State) : (ecConvert s).sw = s.sw := by
  rfl

@[simp] theorem ecConvert_pins (s : State) : (ecConvert s).pins = s.pins := by
  rfl

@[simp] theorem ecConvert_ext (s : State) : (ecConvert s).ext = s.ext := by
  rfl

@[simp] theorem ecWaitTurn_cfg (s : State) (st : EcWait) (sub : WaitSub) : (ecWaitTurn st sub s).cfg = s.cfg := by
  unfold ecWaitTurn
  split <;> simp

@[simp] theorem ecWaitTurn_pwm (s : State) (st : EcWait) (sub : WaitSub) : (ecWaitTurn st sub s).pwm = s.pwm := by
  unfold ecWaitTurn
  split <;> simp

@[simp] theorem ecWaitTurn_mem (s : State) (st : EcWait) (sub : WaitSub) : (ecWaitTurn st sub s).mem = s.mem := by
  unfold ecWaitTurn
  split <;> simp

@[simp] theorem ecWaitTurn_tau (s : State) (st : EcWait) (sub : WaitSub) : (ecWaitTurn st sub s).tau = s.tau := by
  unfold ecWaitTurn
  split <;> simp

@[simp] theorem ecWaitTurn_script (s : State) (st : EcWait) (sub : WaitSub) : (ecWaitTurn st sub s).script = s.script := by
  unfold ecWaitTurn
  split <;> simp

@[simp] theorem ecWaitTurn_tick (s : State) (st : EcWait) (sub : WaitSub) : (ecWaitTurn st sub s).tick = s.tick := by
  unfold ecWaitTurn
  split <;> simp

@[simp] theorem ecWaitTurn_commits (s : State) (st : EcWait) (sub : WaitSub) : (ecWaitTurn st sub s).commits = s.commits := by
  unfold ecWaitTurn
  split <;> simp

@[simp] theorem ecWaitTurn_disp (s : State) (st : EcWait) (sub : WaitSub) : (ecWaitTurn st sub s).disp = s.disp := by
  unfold ecWaitTurn
  split <;> simp

@[simp] theorem ecWaitTurn_sw (s : State) (st : EcWait) (sub : WaitSub) : (ecWaitTurn st sub s).sw = s.sw := by
  unfold ecWaitTurn
  split <;> simp

@[simp] theorem ecWaitTurn_pins (s : State) (st : EcWait) (sub : WaitSub) : (ecWaitTurn st sub s).pins = s.pins := by
  unfold ecWaitTurn
  split <;> simp

@[simp] theorem ecWaitTurn_ext (s : State) (st : EcWait) (sub : WaitSub) : (ecWaitTurn st sub s).ext = s.ext := by
  unfold ecWaitTurn
  split <;> simp

@[simp] theorem ecTurn_cfg (s : State) : (ecTurn s).cfg = s.cfg := by
  unfold ecTurn
  split <;> simp

@[simp] theorem ecTurn_pwm (s : State) : (ecTurn s).pwm = s.pwm := by
  unfold ecTurn
  split <;> simp

@[simp] theorem ecTurn_mem (s : State) : (ecTurn s).mem = s.mem := by
  unfold ecTurn
  split <;> simp

@[simp] theorem ecTurn_tau (s : State) : (ecTurn s).tau = s.tau := by
  unfold ecTurn
  split <;> simp

@[simp] theorem ecTurn_script (s : State) : (ecTurn s).script = s.script := by
  unfold ecTurn
  split <;> simp

@[simp] theorem ecTurn_tick (s : State) : (ecTurn s).tick = s.tick := by
  unfold ecTurn
  split <;> simp

@[simp] theorem ecTurn_commits (s : State) : (ecTurn s).commits = s.commits := by
  unfold ecTurn
  split <;> simp

@[simp] theorem ecTurn_disp (s : State) : (ecTurn s).disp = s.disp := by
  unfold ecTurn
  split <;> simp

@[simp] theorem ecTurn_sw (s : State) : (ecTurn s).sw = s.sw := by
  unfold ecTurn
  split <;> simp

theorem ecTurn_pins (s : State) : ∃ h, (ecTurn s).pins = s.pins.set .trig h := by
  unfold ecTurn
  split <;> first | exact ⟨_, rfl⟩ | exact ⟨s.pins.trig, by simp [Pins.set]⟩

@[simp] theorem ecTurn_ext (s : State) : (ecTurn s).ext = s.ext := by
  unfold ecTurn
  split <;> simp [Ext.react_set_other]

/-! ## A turn of REFRESH -/

@[simp] theorem State.rfDelay_cfg (s : State) (n : Nat) (pc : RfPc) : (s.rfDelay n pc).cfg = s.cfg := by
  unfold State.rfDelay
  split <;> rfl

@[simp] theorem rfBitEnd_cfg (s : State) : (rfBitEnd s).cfg = s.cfg := by
  unfold rfBitEnd
  split
  · rfl
  · rfl
  · split <;> rfl

@[simp] theorem rfCheck_cfg (s : State) : (rfCheck s).cfg = s.cfg := by
  unfold rfCheck
  split <;> rfl

@[simp] theorem rfHoldEnd_cfg (s : State) : (rfHoldEnd s).cfg = s.cfg := by
  unfold rfHoldEnd
  split <;> rfl

@[simp] theorem rfDraw_cfg (s : State) : (rfDraw s).cfg = s.cfg := rfl

@[simp] theorem rfExitDone_cfg (s : State) : (rfExitDone s).cfg = s.cfg := rfl

@[simp] theorem State.rfDelay_sw (s : State) (n : Nat) (pc : RfPc) : (s.rfDelay n pc).sw = s.sw := by
  unfold State.rfDelay
  split <;> rfl

@[simp] theorem rfBitEnd_sw (s : State) : (rfBitEnd s).sw = s.sw := by
  unfold rfBitEnd
  split
  · rfl
  · rfl
  · split <;> rfl

@[simp] theorem rfCheck_sw (s : State) : (rfCheck s).sw = s.sw := by
  unfold rfCheck
  split <;> rfl

@[simp] theorem rfHoldEnd_sw (s : State) : (rfHoldEnd s).sw = s.sw := by
  unfold rfHoldEnd
  split <;> rfl

@[simp] theorem rfDraw_sw (s : State) : (rfDraw s).sw = s.sw := rfl

@[simp] theorem rfExitDone_sw (s : State) : (rfExitDone s).sw = s.sw := rfl

@[simp] theorem State.rfDelay_echo (s : State) (n : Nat) (pc : RfPc) : (s.rfDelay n pc).echo = s.echo := by
  unfold State.rfDelay
  split <;> rfl

@[simp] theorem rfBitEnd_echo (s : State) : (rfBitEnd s).echo = s.echo := by
  unfold rfBitEnd
  split
  · rfl
  · rfl
  · split <;> rfl

@[simp] theorem rfCheck_echo (s : State) : (rfCheck s).echo = s.echo := by
  unfold rfCheck
  split <;> rfl

@[simp] theorem rfHoldEnd_echo (s : State) : (rfHoldEnd s).echo = s.echo := by
  unfold rfHoldEnd
  split <;> rfl

@[simp] theorem rfDraw_echo (s : State) : (rfDraw s).echo = s.echo := rfl

@[simp] theorem rfExitDone_echo (s : State) : (rfExitDone s).echo = s.echo := rfl

@[simp] theorem State.rfDelay_pwm (s : State) (n : Nat) (pc : RfPc) : (s.rfDelay n pc).pwm = s.pwm := by
  unfold State.rfDelay
  split <;> rfl

@[simp] theorem rfBitEnd_pwm (s : State) : (rfBitEnd s).pwm = s.pwm := by
  unfold rfBitEnd
  split
  · rfl
  · rfl
  · split <;> rfl

@[simp] theorem rfCheck_pwm (s : State) : (rfCheck s).pwm = s.pwm := by
  unfold rfCheck
  split <;> rfl

@[simp] theorem rfHoldEnd_pwm (s : State) : (rfHoldEnd s).pwm = s.pwm := by
  unfold rfHoldEnd
  split <;> rfl

@[simp] theorem rfDraw_pwm (s : State) : (rfDraw s).pwm = s.pwm := rfl

@[simp] theorem rfExitDone_pwm (s : State) : (rfExitDone s).pwm = s.pwm := rfl

@[simp] theorem State.rfDelay_mem (s : State) (n : Nat) (pc : RfPc) : (s.rfDelay n pc).mem = s.mem := by
  unfold State.rfDelay
  split <;> rfl

@[simp] theorem rfBitEnd_mem (s : State) : (rfBitEnd s).mem = s.mem := by
  unfold rfBitEnd
  split
  · rfl
  · rfl
  · split <;> rfl

@[simp] theorem rfCheck_mem (s : State) : (rfCheck s).mem = s.mem := by
  unfold rfCheck
  split <;> rfl

@[simp] theorem rfHoldEnd_mem (s : State) : (rfHoldEnd s).mem = s.mem := by
  unfold rfHoldEnd
  split <;> rfl

@[simp] theorem rfDraw_mem (s : State) : (rfDraw s).mem = s.mem := rfl

@[simp] theorem rfExitDone_mem (s : State) : (rfExitDone s).mem = s.mem := rfl

@[simp] theorem State.rfDelay_tau (s : State) (n : Nat) (pc : RfPc) : (s.rfDelay n pc).tau = s.tau := by
  unfold State.rfDelay
  split <;> rfl

@[simp] theorem rfBitEnd_tau (s : State) : (rfBitEnd s).tau = s.tau := by
  unfold rfBitEnd
  split
  · rfl
  · rfl
  · split <;> rfl

@[simp] theorem rfCheck_tau (s : State) : (rfCheck s).tau = s.tau := by
  unfold rfCheck
  split <;> rfl

@[simp] theorem rfHoldEnd_tau (s : State) : (rfHoldEnd s).tau = s.tau := by
  unfold rfHoldEnd
  split <;> rfl

@[simp] theorem rfDraw_tau (s : State) : (rfDraw s).tau = s.tau := rfl

@[simp] theorem rfExitDone_tau (s : State) : (rfExitDone s).tau = s.tau := rfl

@[simp] theorem State.rfDelay_threads (s : State) (n : Nat) (pc : RfPc) : (s.rfDelay n pc).threads = s.threads := by
  unfold State.rfDelay
  split <;> rfl

@[simp] theorem rfBitEnd_threads (s : State) : (rfBitEnd s).threads = s.threads := by
  unfold rfBitEnd
  split
  · rfl
  · rfl
  · split <;> rfl

@[simp] theorem rfCheck_threads (s : State) : (rfCheck s).threads = s.threads := by
  unfold rfCheck
  split <;> rfl

@[simp] theorem rfHoldEnd_threads (s : State) : (rfHoldEnd s).threads = s.threads := by
  unfold rfHoldEnd
  split <;> rfl

@[simp] theorem rfDraw_threads (s : State) : (rfDraw s).threads = s.threads := rfl

@[simp] theorem rfExitDone_threads (s : State) : (rfExitDone s).threads = s.threads := rfl

@[simp] theorem State.rfDelay_script (s : State) (n : Nat) (pc : RfPc) : (s.rfDelay n pc).script = s.script := by
  unfold State.rfDelay
  split <;> rfl

@[simp] theorem rfBitEnd_script (s : State) : (rfBitEnd s).script = s.script := by
  unfold rfBitEnd
  split
  · rfl
  · rfl
  · split <;> rfl

@[simp] theorem rfCheck_script (s : State) : (rfCheck s).script = s.script := by
  unfold rfCheck
  split <;> rfl

@[simp] theorem rfHoldEnd_script (s : State) : (rfHoldEnd s).script = s.script := by
  unfold rfHoldEnd
  split <;> rfl

@[simp] theorem rfDraw_script (s : State) : (rfDraw s).script = s.script := rfl

@[simp] theorem rfExitDone_script (s : State) : (rfExitDone s).script = s.script := rfl

@[simp] theorem State.rfDelay_tick (s : State) (n : Nat) (pc : RfPc) : (s.rfDelay n pc).tick = s.tick := by
  unfold State.rfDelay
  split <;> rfl

@[simp] theorem rfBitEnd_tick (s : State) : (rfBitEnd s).tick = s.tick := by
  unfold rfBitEnd
  split
  · rfl
  · rfl
  · split <;> rfl

@[simp] theorem rfCheck_tick (s : State) : (rfCheck s).tick = s.tick := by
  unfold rfCheck
  split <;> rfl

@[simp] theorem rfHoldEnd_tick (s : State) : (rfHoldEnd s).tick = s.tick := by
  unfold rfHoldEnd
  split <;> rfl

@[simp] theorem rfDraw_tick (s : State) : (rfDraw s).tick = s.tick := rfl

@[simp] theorem rfExitDone_tick (s : State) : (rfExitDone s).tick = s.tick := rfl

@[simp] theorem State.rfDelay_commits (s : State) (n : Nat) (pc : RfPc) : (s.rfDelay n pc).commits = s.commits := by
  unfold State.rfDelay
  split <;> rfl

@[simp] theorem rfBitEnd_commits (s : State) : (rfBitEnd s).commits = s.commits := by
  unfold rfBitEnd
  split
  · rfl
  · rfl
  · split <;> rfl

@[simp] theorem rfCheck_commits (s : State) : (rfCheck s).commits = s.commits := by
  unfold rfCheck
  split <;> rfl

@[simp] theorem rfHoldEnd_commits (s : State) : (rfHoldEnd s).commits = s.commits := by
  unfold rfHoldEnd
  split <;> rfl

@[simp] theorem rfDraw_commits (s : State) : (rfDraw s).commits = s.commits := rfl

@[simp] theorem rfExitDone_commits (s : State) : (rfExitDone s).commits = s.commits := rfl

@[simp] theorem State.rfDelay_pins (s : State) (n : Nat) (pc : RfPc) : (s.rfDelay n pc).pins = s.pins := by
  unfold State.rfDelay
  split <;> rfl

@[simp] theorem rfBitEnd_pins (s : State) : (rfBitEnd s).pins = s.pins := by
  unfold rfBitEnd
  split
  · rfl
  · rfl
  · split <;> rfl

@[simp] theorem rfCheck_pins (s : State) : (rfCheck s).pins = s.pins := by
  unfold rfCheck
  split <;> rfl

@[simp] theorem rfHoldEnd_pins (s : State) : (rfHoldEnd s).pins = s.pins := by
  unfold rfHoldEnd
  split <;> rfl

@[simp] theorem rfDraw_pins (s : State) : (rfDraw s).pins = s.pins := rfl

@[simp] theorem rfExitDone_pins (s : State) : (rfExitDone s).pins = s.pins := rfl

@[simp] theorem State.rfDelay_ext (s : State) (n : Nat) (pc : RfPc) : (s.rfDelay n pc).ext = s.ext := by
  unfold State.rfDelay
  split <;> rfl

@[simp] theorem rfBitEnd_ext (s : State) : (rfBitEnd s).ext = s.ext := by
  unfold rfBitEnd
  split
  · rfl
  · rfl
  · split <;> rfl

@[simp] theorem rfCheck_ext (s : State) : (rfCheck s).ext = s.ext := by
  unfold rfCheck
  split <;> rfl

@[simp] theorem rfHoldEnd_ext (s : State) : (rfHoldEnd s).ext = s.ext := by
  unfold rfHoldEnd
  split <;> rfl

@[simp] theorem rfDraw_ext (s : State) : (rfDraw s).ext = s.ext := rfl

@[simp] theorem rfExitDone_ext (s : State) : (rfExitDone s).ext = s.ext := rfl

/-- `RF_LOAD` always completes: its address is one of the two (20_memory.md R61). -/
theorem rfLoad_eq (s : State) :
    rfLoad s = .next { s with disp := { s.disp with
      pat := digitToSegments s.cfg (Memory.read s.mem (digitAddr s.disp.half)), bit := 7, pc := .bitData } } := by
  unfold rfLoad
  rw [memRead_one _ (digitAddr_lt _)]
  rfl

/-- REFRESH never stops: every step of the loop answers a next state (40_display.md R129). -/
theorem refreshTurn_next (s : State) : ∃ t, refreshTurn s = .next t := by
  unfold refreshTurn rfStep
  split
  · split <;> first | exact ⟨_, rfl⟩ | exact ⟨_, rfLoad_eq s⟩
  · exact ⟨_, rfl⟩

/-- What a turn of REFRESH leaves alone (10_state.md R20; 20_memory.md R61, R74). -/
theorem refreshTurn_frame (h : refreshTurn s = .next t) :
    t.cfg = s.cfg ∧ t.sw = s.sw ∧ t.echo = s.echo ∧ t.pwm = s.pwm ∧ t.mem = s.mem ∧ t.tau = s.tau ∧
    t.threads = s.threads ∧ t.script = s.script ∧ t.tick = s.tick ∧ t.commits = s.commits ∧
    t.pins.sw = s.pins.sw ∧ t.pins.trig = s.pins.trig ∧ t.pins.echo = s.pins.echo := by
  unfold refreshTurn rfStep at h
  split at h
  · split at h
    all_goals first
      | (rw [rfLoad_eq] at h; cases h; simp)
      | (cases h; simp [Pins.set]; done)
      | (cases h; cases s.disp.half <;> simp [selPin, Pins.set])
  · cases h; simp

end Sys2Proof.Machine
end

