-- ==== Sys2Proof/Laws/Endings.lean ====
section
/-! SUPPORT. Why an operation ends: each turn of its thread brings a measurement a stage on, or waits for time to pass, and no other step
changes the thread (60_exceptions.md R240, R242; 41_singlewire.md R141; 42_echo.md R172, R173). -/

namespace Sys2Proof.Machine

/-! ## Single wire -/

/-- The stages a single-wire measurement has left before it returns: one per phase, two per bit slot. -/
def swStage (x : Sw) : Nat :=
  match x.pc with
  | .idle => 0
  | .check => 1
  | .restoreHigh => 2
  | .restoreDir => 3
  | .wait .tail _ => 4
  | .wait .bitSecond _ => 3 + 2 * (swFrameBits - x.k)
  | .wait .bitFirst _ => 4 + 2 * (swFrameBits - x.k)
  | .wait .preambleEnd _ => 85
  | .wait .ackHigh _ => 86
  | .wait .ackLow _ => 87
  | .relIn => 88
  | .relHigh => 89
  | .startDelay => 90
  | .startLow => 91

/-- A turn in a wait that does not end it: the poll goes round, and it goes back to the pin only within its bound. -/
def PollGoesRound (T now : Nat) (w w' : WaitLocals) : WaitSub → WaitSub → Prop
  | .a, .b => w'.t0 = now
  | .b, .c => w'.t0 = w.t0
  | .c, .b => w'.t0 = w.t0 ∧ now - w.t0 ≤ T
  | _, _ => False

/-- All that one poll step can come to, when it neither succeeds nor times out. -/
theorem waitTurn_goesOn {level : Level} {T now : Nat} {line : Level} {w w' : WaitLocals} {sub sub' : WaitSub}
    (h : waitTurn level T line now w sub = .goesOn sub' w') : PollGoesRound T now w w' sub sub' := by
  cases sub <;> simp only [waitTurn] at h
  · injection h with h1 h2; subst h1 h2; rfl
  · injection h with h1 h2; subst h1 h2; rfl
  · split at h
    · cases h
    · split at h
      · cases h
      · injection h with h1 h2; subst h1 h2; exact ⟨rfl, by omega⟩

/-- Every turn of a thread inside of a measurement brings it a stage on, or begins or sits out the delay of the start signal, or goes
round in a wait. -/
theorem swTurn_progress (s : State) (hs : s.atSwStep) (hp : s.sw.pc ≠ .idle) :
    swStage (swTurn s).sw < swStage s.sw ∨
    (s.sw.pc = .startDelay ∧ (swTurn s).sw.pc = .startDelay ∧
      (s.sw.wake = none ∧ (swTurn s).sw.wake = some (s.tau + 18000000) ∨ ∃ w, s.sw.wake = some w ∧ s.tau < w ∧ swTurn s = s)) ∨
    ∃ st sub sub', s.sw.pc = .wait st sub ∧ (swTurn s).sw.pc = .wait st sub' ∧ (swTurn s).sw.k = s.sw.k ∧
      PollGoesRound (st.timeoutUs s.cfg) s.nowUs s.sw.wait (swTurn s).sw.wait sub sub' := by
  unfold State.atSwStep at hs
  cases hpc : s.sw.pc with
  | idle => exact absurd hpc hp
  | startDelay =>
    unfold swTurn
    simp only [hpc, swStartDelay]
    cases hd : delayTurn (1000000 * swStartLowMs) s.tau s.sw.wake with
    | starts w =>
      obtain ⟨h1, h2⟩ := delayTurn_starts hd
      exact .inr (.inl ⟨trivial, rfl, .inl ⟨h1, by rw [h2]; rfl⟩⟩)
    | held => exact .inr (.inl ⟨trivial, hpc, .inr (by obtain ⟨w, h1, h2⟩ := delayTurn_held hd; exact ⟨w, h1, h2, rfl⟩)⟩)
    | _ => exact .inl (by simp [swStage, hpc])
  | wait st sub =>
    unfold swTurn
    simp only [hpc, swWaitTurn] at hs ⊢
    cases hw : waitTurn st.level (st.timeoutUs s.cfg) (s.pinRead .sw) s.nowUs s.sw.wait sub with
    | goesOn sub' w => exact .inr (.inr ⟨st, sub, sub', rfl, rfl, rfl, waitTurn_goesOn hw⟩)
    | timeout w =>
      refine .inl ?_
      cases st <;> simp [swAbort, State.raise, State.goIdle, State.giveBack, State.updCaller, swStage, hpc]
    | done d w =>
      refine .inl ?_
      obtain ⟨-, -, hk, -⟩ := hs
      cases st with
      | bitSecond =>
        have hlt : s.sw.k < 40 := hk.1
        simp only [swDone, swStage, hpc, swFrameBits]
        by_cases hl : s.sw.k + 1 = 40
        · simp only [hl, if_true]; omega
        · simp only [hl, if_false]; omega
      | _ => simp [swDone, State.swGo, swStage, hpc, swFrameBits]
  | _ => exact .inl (by
      unfold swTurn
      simp [hpc, swStage, State.swGo, State.pinWrite, State.pinDir, State.setPins, swCheck, State.giveBack, State.updCaller])

/-- A turn that leaves the measurement idle has given an answer. -/
theorem swTurn_returns (s : State) (hp : s.sw.pc ≠ .idle) :
    ((swTurn s).sw.pc = .idle ∧ ∃ r, (swTurn s).threads = (s.giveBack r).threads) ∨
    ((swTurn s).sw.pc ≠ .idle ∧ (swTurn s).threads = s.threads) := by
  unfold swTurn
  cases hpc : s.sw.pc with
  | idle => exact absurd hpc hp
  | check => exact .inl ⟨rfl, _, rfl⟩
  | startDelay => simp only [swStartDelay]; split <;> exact .inr ⟨by simp [hpc], rfl⟩
  | wait st sub =>
    simp only [swWaitTurn]
    split
    · exact .inr ⟨by simp, rfl⟩
    · refine .inr ⟨?_, by cases st <;> rfl⟩
      cases st <;> simp [swDone, State.swGo]
      split <;> simp
    · exact .inl ⟨rfl, _, rfl⟩
  | _ => exact .inr ⟨by simp [State.swGo], rfl⟩

/-! ## Echo -/

/-- The stages an echo measurement has left before it returns. -/
def ecStage (x : Echo) : Nat :=
  match x.pc with
  | .idle => 0
  | .convert => 1
  | .wait .low _ => 2
  | .wait .high _ => 3
  | .trigLow => 4
  | .trigDelay => 5

/-- Every turn of a thread inside of a measurement brings it a stage on, or begins or sits out the delay of the trigger, or goes round in
a wait. -/
theorem ecTurn_progress (s : State) (hp : s.echo.pc ≠ .idle) :
    ecStage (ecTurn s).echo < ecStage s.echo ∨
    (s.echo.pc = .trigDelay ∧ (ecTurn s).echo.pc = .trigDelay ∧
      (s.echo.wake = none ∧ (ecTurn s).echo.wake = some (s.tau + 10000) ∨ ∃ w, s.echo.wake = some w ∧ s.tau < w ∧ ecTurn s = s)) ∨
    ∃ st sub sub', s.echo.pc = .wait st sub ∧ (ecTurn s).echo.pc = .wait st sub' ∧
      PollGoesRound echoTimeoutUs s.nowUs s.echo.wait (ecTurn s).echo.wait sub sub' := by
  unfold ecTurn
  cases hpc : s.echo.pc with
  | idle => exact absurd hpc hp
  | trigDelay =>
    simp only [ecTrigDelay]
    cases hd : delayTurn (1000 * echoTrigUs) s.tau s.echo.wake with
    | starts w =>
      obtain ⟨h1, h2⟩ := delayTurn_starts hd
      exact .inr (.inl ⟨trivial, hpc, .inl ⟨h1, by rw [h2]; rfl⟩⟩)
    | held => exact .inr (.inl ⟨trivial, hpc, .inr (by obtain ⟨w, h1, h2⟩ := delayTurn_held hd; exact ⟨w, h1, h2, rfl⟩)⟩)
    | _ => exact .inl (by simp [ecStage, hpc])
  | wait st sub =>
    simp only [ecWaitTurn]
    cases hw : waitTurn st.level echoTimeoutUs (s.pinRead .echo) s.nowUs s.echo.wait sub with
    | goesOn sub' w => exact .inr (.inr ⟨st, sub, sub', rfl, rfl, waitTurn_goesOn hw⟩)
    | timeout w =>
      refine .inl ?_
      cases st <;> simp [ecAbort, State.raise, State.goIdle, State.giveBack, State.updCaller, ecStage, hpc]
    | done d w => refine .inl ?_; cases st <;> simp [ecDone, State.ecGo, ecStage, hpc]
  | _ => exact .inl (by simp [hpc, ecStage, State.ecGo, State.pinWrite, State.setPins, ecConvert, State.giveBack, State.updCaller])

/-- A turn that leaves the measurement idle has given an answer. -/
theorem ecTurn_returns (s : State) (hp : s.echo.pc ≠ .idle) :
    ((ecTurn s).echo.pc = .idle ∧ ∃ r, (ecTurn s).threads = (s.giveBack r).threads) ∨
    ((ecTurn s).echo.pc ≠ .idle ∧ (ecTurn s).threads = s.threads) := by
  unfold ecTurn
  cases hpc : s.echo.pc with
  | idle => exact absurd hpc hp
  | convert => exact .inl ⟨rfl, _, rfl⟩
  | trigDelay => simp only [ecTrigDelay]; split <;> exact .inr ⟨by simp [hpc], rfl⟩
  | trigLow => exact .inr ⟨by simp [State.ecGo], rfl⟩
  | wait st sub =>
    simp only [ecWaitTurn]
    split
    · exact .inr ⟨by simp, rfl⟩
    · exact .inr ⟨by cases st <;> simp [ecDone, State.ecGo], by cases st <;> rfl⟩
    · exact .inl ⟨rfl, _, rfl⟩

/-! ## Threads -/

/-- `t` has the threads of `s`, but for the one that takes the step. -/
def OnlyCaller (s t : State) : Prop := ∀ j, j ≠ s.caller → t.threads[j]? = s.threads[j]?

theorem onlyCaller_of_eq {s t : State} (h : t.threads = s.threads) : OnlyCaller s t := fun j _ => by rw [h]

theorem onlyCaller_updCaller {s u t : State} {f : Thread → Thread} (h : t.threads = (u.updCaller f).threads)
    (hc : u.caller = s.caller) (hu : u.threads = s.threads) : OnlyCaller s t := by
  intro j hj
  simp [h, State.updCaller, hc, hu, Ne.symm hj]

/-- An operation changes no thread but its caller. -/
theorem exec_onlyCaller {i : Instr} {s t : State} (h : exec i s = .next t) : OnlyCaller s t := by
  cases i with
  | dispSetDigits d u =>
    simp only [exec, execDispSetDigits] at h
    split at h
    · simp only [memWrite, continueWith] at h; cases h; exact onlyCaller_updCaller rfl rfl rfl
    · cases h
  | dispStart =>
    simp only [exec, execDispStart] at h
    repeat' split at h
    all_goals first | (cases h; done) | (cases h; exact onlyCaller_updCaller rfl rfl rfl)
  | dispStop =>
    simp only [exec, execDispStop] at h
    repeat' split at h
    all_goals first | (cases h; done) | (cases h; exact onlyCaller_updCaller rfl rfl rfl)
  | swMeasure =>
    simp only [exec, execSwMeasure] at h
    repeat' split at h
    all_goals first | (cases h; done) | (cases h; exact onlyCaller_updCaller rfl rfl rfl)
  | echoMeasure =>
    simp only [exec, execEchoMeasure] at h
    repeat' split at h
    all_goals first | (cases h; done) | (cases h; exact onlyCaller_updCaller rfl rfl rfl)
  | pwmSetDuty p =>
    simp only [exec, execPwmSetDuty, commitDuty] at h
    repeat' split at h
    all_goals first | (cases h; done) | (cases h; exact onlyCaller_updCaller rfl rfl rfl)

theorem onlyCaller_trans {s u t : State} (h : OnlyCaller u t) (hc : u.caller = s.caller) (hu : OnlyCaller s u) : OnlyCaller s t :=
  fun j hj => (h j (hc ▸ hj)).trans (hu j hj)

/-- A call changes no thread but its caller. -/
theorem issue_onlyCaller {c : Call} {s t : State} (h : issue c s = .next t) : OnlyCaller s t := by
  have hr : ∀ (i : Instr) (r : Reply), exec i (s.setReply r) = .next t → OnlyCaller s t := fun i r h =>
    onlyCaller_trans (exec_onlyCaller h) rfl (onlyCaller_updCaller rfl rfl rfl)
  have ha : ∀ (e : Engine) (r : Return), answerAtOnce e r s = .next t → OnlyCaller s t := by
    intro e r h
    simp only [answerAtOnce] at h
    split at h
    · cases h; exact onlyCaller_updCaller rfl rfl rfl
    · cases h
  cases c with
  | word w =>
    simp only [issue, present] at h
    split at h
    · exact exec_onlyCaller h
    · cases h
  | attach e =>
    simp only [issue, attach, attachPwm] at h
    split at h
    · cases h
    · cases h
      split
      · cases e <;> dsimp only <;> (try split) <;> exact onlyCaller_updCaller rfl rfl rfl
      · cases e <;> exact onlyCaller_updCaller rfl rfl rfl
  | detach e =>
    simp only [issue, detach] at h
    repeat' split at h
    all_goals first | (cases h; done) | (cases h; cases e <;> exact onlyCaller_updCaller rfl rfl rfl)
  | dispWrite bs => exact hr _ _ h
  | dispRead off => exact ha _ _ h
  | swRead off => simp only [issue, issueSwRead] at h; split at h <;> [exact hr _ _ h; exact ha _ _ h]
  | echoRead off => simp only [issue, issueEchoRead] at h; split at h <;> [exact hr _ _ h; exact ha _ _ h]
  | swWrite bs => cases h
  | echoWrite bs => cases h
  | pwmWrite bs => simp only [issue, issuePwmWrite] at h; split at h <;> [exact hr _ _ h; exact ha _ _ h]
  | pwmRead off => exact ha _ _ h

/-- A turn of a thread changes no other thread. -/
theorem hostTurn_onlyCaller {k : Nat} {s t : State} (hc : s.choice.agent = .host k) (h : hostTurn k s = .next t) : OnlyCaller s t := by
  have hk : s.caller = k := caller_of_host hc
  unfold hostTurn at h
  split at h
  · cases h; exact onlyCaller_of_eq rfl
  · next th hth =>
    cases ha : th.act with
    | idle =>
      simp only [ha] at h
      split at h
      · cases h; exact onlyCaller_of_eq rfl
      · refine onlyCaller_trans (issue_onlyCaller h) rfl fun j hj => ?_
        simp [State.popCall, Ne.symm (hk ▸ hj)]
    | setDigits u =>
      simp only [ha, setDigitsSecond, memWrite, continueWith] at h
      cases h; exact onlyCaller_updCaller rfl rfl rfl
    | stopHold =>
      simp only [ha, stopHoldTurn] at h
      cases h
      split
      · exact onlyCaller_of_eq rfl
      · exact onlyCaller_updCaller rfl rfl rfl
    | swMeasure =>
      simp only [ha] at h
      cases h
      by_cases hp : s.sw.pc = .idle
      · exact onlyCaller_of_eq (by unfold swTurn; rw [hp])
      · obtain ⟨-, r, hr⟩ | ⟨-, hr⟩ := swTurn_returns s hp
        · exact onlyCaller_updCaller hr rfl rfl
        · exact onlyCaller_of_eq hr
    | echoMeasure =>
      simp only [ha] at h
      cases h
      by_cases hp : s.echo.pc = .idle
      · exact onlyCaller_of_eq (by unfold ecTurn; rw [hp])
      · obtain ⟨-, r, hr⟩ | ⟨-, hr⟩ := ecTurn_returns s hp
        · exact onlyCaller_updCaller hr rfl rfl
        · exact onlyCaller_of_eq hr

/-- What a step does to a thread that does not take it: it may get a further call, no more. -/
theorem step_otherThread {s t : State} {k : Nat} {th : Thread} (h : step s = .next t) (hk : s.threads[k]? = some th)
    (hc : s.choice.agent ≠ .host k) : ∃ calls, t.threads[k]? = some { th with calls := calls } := by
  obtain ⟨u, hu, rfl⟩ := step_eq_next h
  show ∃ calls, u.threads[k]? = _
  cases ha : s.choice.agent with
  | host j =>
    rw [ha] at hu
    have hkj : k ≠ s.caller := by rw [caller_of_host ha]; rintro rfl; exact hc ha
    exact ⟨th.calls, (hostTurn_onlyCaller ha hu k hkj).trans hk⟩
  | refresh =>
    rw [ha] at hu
    exact ⟨th.calls, by rw [(refreshTurn_frame hu).2.2.2.2.2.2.1]; exact hk⟩
  | env a =>
    rw [ha] at hu
    cases hu
    refine ⟨th.calls, ?_⟩
    cases a with
    | advance ns => exact hk
    | setLine p v => simp only [envTurn]; split <;> exact hk
  | call j c =>
    rw [ha] at hu
    cases hu
    have hlt : k < s.threads.length := by
      by_contra hn
      rw [List.getElem?_eq_none (by omega)] at hk
      cases hk
    simp only [callArrives]
    split
    · by_cases hj : j = k
      · subst hj; exact ⟨th.calls ++ [c], by simp [hk]⟩
      · exact ⟨th.calls, by simp [hj, hk]⟩
    · exact ⟨th.calls, by simp [List.getElem?_append, hlt]; simpa [hlt] using hk⟩

end Sys2Proof.Machine
end

