-- ==== Sys2Proof/Laws/Runs.lean ====
section
/-! SUPPORT. Runs of several steps: how they compose, and what one poll of a pin comes to when the line takes the wanted level while the
poll is on (41_singlewire.md R140). -/

namespace Sys2Proof.Machine

theorem run_zero (s : State) : Sys2Proof.core.run 0 s = .next s := rfl

/-- One step and then the rest, of any machine. -/
theorem coreRun_succ (M : Host.Core) {n : Nat} {s t : M.State} (h : M.step s = .next t) : M.run (n + 1) s = M.run n t := by
  simp [Host.Core.run, h]

/-- A run is its first part and then the rest, of any machine. -/
theorem coreRun_add (M : Host.Core) {m n : Nat} {s t : M.State} (h : M.run m s = .next t) : M.run (m + n) s = M.run n t := by
  induction m generalizing s with
  | zero => simp only [Host.Core.run, Host.Outcome.next.injEq] at h; rw [h, Nat.zero_add]
  | succ m ih =>
    rw [Nat.add_right_comm]
    simp only [Host.Core.run] at h ⊢
    cases hst : M.step s with
    | next u => rw [hst] at h; exact ih h
    | fault r => rw [hst] at h; cases h
    | refused r => rw [hst] at h; cases h

theorem run_succ {n : Nat} {s t : State} (h : step s = .next t) : Sys2Proof.core.run (n + 1) s = Sys2Proof.core.run n t :=
  coreRun_succ Sys2Proof.core h

theorem run_add {m n : Nat} {s t : State} (h : Sys2Proof.core.run m s = .next t) :
    Sys2Proof.core.run (m + n) s = Sys2Proof.core.run n t :=
  coreRun_add Sys2Proof.core h

/-- A step governed by a listed move of ENV. -/
theorem step_env {s : State} {c : Choice} {cs : List Choice} {a : EnvAct} (hs : s.script = c :: cs) (hc : c.agent = .env a) :
    step s = .next (envTurn a s).spend := by
  simp [step, choice_cons hs, hc, agentTurn]

/-- A step governed by a listed turn of REFRESH. -/
theorem step_refresh {s : State} {c : Choice} {cs : List Choice} (hs : s.script = c :: cs) (hc : c.agent = .refresh) :
    step s = mapNext State.spend (refreshTurn s) := by
  simp [step, choice_cons hs, hc, agentTurn]

/-- A step of a thread that is inside of `SW_MEASURE`. -/
theorem step_swTurn {s : State} {k : Nat} {th : Thread} (hc : s.choice.agent = .host k) (hk : s.threads[k]? = some th)
    (ha : th.act = .swMeasure) : step s = .next (swTurn s).spend := by
  simp [step, hc, agentTurn, hostTurn, hk, ha]

/-- A step of a thread that is inside of `ECHO_MEASURE`. -/
theorem step_ecTurn {s : State} {k : Nat} {th : Thread} (hc : s.choice.agent = .host k) (hk : s.threads[k]? = some th)
    (ha : th.act = .echoMeasure) : step s = .next (ecTurn s).spend := by
  simp [step, hc, agentTurn, hostTurn, hk, ha]

/-- A step in which an idle thread presents a word. -/
theorem step_word {s : State} {k : Nat} {th : Thread} {w : CmdWord} {rest : List Call} {i : Instr}
    (hc : s.choice.agent = .host k) (hk : s.threads[k]? = some th) (ha : th.act = .idle) (hw : th.calls = .word w :: rest)
    (hd : decode w = .ok i) : step s = mapNext State.spend (exec i (s.popCall k)) := by
  simp [step, hc, agentTurn, hostTurn, hk, ha, hw, issue, present, hd]

/-- The clock after a whole number of microseconds. -/
theorem us_later (tau us : Nat) : (tau + 1000 * us) / 1000 = tau / 1000 + us := by omega

/-- One poll of the single-wire line that ends with the wanted level, `us` microseconds after it began: five steps. -/
theorem run_swPoll {s : State} {k us : Nat} {th : Thread} {st : SwWait} {more : List Choice}
    (hs : s.script = pollScript k .sw st.level us ++ more) (hk : s.threads[k]? = some th) (ha : th.act = .swMeasure)
    (hp : s.sw.pc = .wait st .a) (hd : s.pins.sw.dir = .input) :
    Sys2Proof.core.run 5 s = .next (swDone st us { s with
      sw := { s.sw with wait := ⟨s.nowUs, st.level, s.nowUs + us⟩, pc := .wait st .c }
      pins := { s.pins with sw := { s.pins.sw with line := st.level } }
      tau := s.tau + 1000 * us
      script := more
      tick := s.tick + 5 }) := by
  obtain ⟨cfg, disp, sw, echo, pwm, mem, pins, ext, tau, threads, script, tick, commits⟩ := s
  obtain ⟨att, frame, cnt, d1, d2, w, pc, wake⟩ := sw
  obtain ⟨data, clk, latch, selU, selT, swp, trig, ech⟩ := pins
  obtain ⟨sr, q, pulses⟩ := ext
  obtain ⟨dir, out, line⟩ := swp
  simp only at hs hk hp hd
  subst hs hp hd
  rw [run_succ (step_swTurn (k := k) rfl hk ha), run_succ (step_env rfl rfl), run_succ (step_env rfl rfl),
    run_succ (step_swTurn (k := k) rfl hk ha), run_succ (step_swTurn (k := k) rfl hk ha), run_zero]
  cases st <;>
    simp [swTurn, swWaitTurn, waitTurn, State.spend, envTurn, swDone, State.swGo, State.pinRead, Pins.get, Pins.set, State.setPins,
      Ext.react, PinHandle.rises, SwWait.level, State.nowUs, us_later, pollScript, Nat.add_assoc]

/-- One poll of the echo line that ends with the wanted level, `us` microseconds after it began: five steps. -/
theorem run_ecPoll {s : State} {k us : Nat} {th : Thread} {st : EcWait} {more : List Choice}
    (hs : s.script = pollScript k .echo st.level us ++ more) (hk : s.threads[k]? = some th) (ha : th.act = .echoMeasure)
    (hp : s.echo.pc = .wait st .a) (hd : s.pins.echo.dir = .input) :
    Sys2Proof.core.run 5 s = .next (ecDone st us { s with
      echo := { s.echo with wait := ⟨s.nowUs, st.level, s.nowUs + us⟩, pc := .wait st .c }
      pins := { s.pins with echo := { s.pins.echo with line := st.level } }
      tau := s.tau + 1000 * us
      script := more
      tick := s.tick + 5 }) := by
  obtain ⟨cfg, disp, sw, echo, pwm, mem, pins, ext, tau, threads, script, tick, commits⟩ := s
  obtain ⟨att, t, dist, w, pc, wake⟩ := echo
  obtain ⟨data, clk, latch, selU, selT, swp, trig, ech⟩ := pins
  obtain ⟨sr, q, pulses⟩ := ext
  obtain ⟨dir, out, line⟩ := ech
  simp only at hs hk hp hd
  subst hs hp hd
  rw [run_succ (step_ecTurn (k := k) rfl hk ha), run_succ (step_env rfl rfl), run_succ (step_env rfl rfl),
    run_succ (step_ecTurn (k := k) rfl hk ha), run_succ (step_ecTurn (k := k) rfl hk ha), run_zero]
  cases st <;>
    simp [ecTurn, ecWaitTurn, waitTurn, State.spend, envTurn, ecDone, State.ecGo, State.pinRead, Pins.get, Pins.set, State.setPins,
      Ext.react, PinHandle.rises, EcWait.level, State.nowUs, us_later, pollScript, Nat.add_assoc]

end Sys2Proof.Machine
end

