-- ==== Sys2Proof/Laws/Measurements.lean ====
section
/-! SUPPORT. The stretches of a whole measurement under a script of its sensor: its start, its slots, its end, the trigger
(41_singlewire.md R143 to R155; 42_echo.md R171; Machine/Sensors.lean). -/

namespace Sys2Proof.Machine

/-- The start of a measurement up to the delay of 18 ms: the call and the first two steps of `SW_START` after it. -/
theorem run_swStartLow {s : State} {k : Nat} {th : Thread} {rest : List Call} {more : List Choice}
    (hs : s.script = hostMove k :: hostMove k :: hostMove k :: more) (hk : s.threads[k]? = some th) (ha : th.act = .idle)
    (hw : th.calls = .word 0x2000000000 :: rest) (hat : s.sw.attached = true) (hp : s.sw.pc = .idle) (hwk : s.sw.wake = none) :
    Sys2Proof.core.run 3 s = .next { s with
      sw := { s.sw with pc := .startDelay, wake := some (s.tau + 18000000) }
      pins := { s.pins with sw := ⟨.output, false, false⟩ }
      threads := s.threads.modify k fun t => { t with calls := t.calls.tail, act := .swMeasure }
      script := more
      tick := s.tick + 3 } := by
  obtain ⟨cfg, disp, sw, echo, pwm, mem, pins, ext, tau, threads, script, tick, commits⟩ := s
  obtain ⟨att, frame, cnt, d1, d2, w, pc, wake⟩ := sw
  obtain ⟨data, clk, latch, selU, selT, swp, trig, ech⟩ := pins
  obtain ⟨sr, q, pulses⟩ := ext
  obtain ⟨dir, out, line⟩ := swp
  simp only at hs hk hp hat hwk
  subst hs hp hat hwk
  have hm : (threads.modify k fun t => { t with calls := t.calls.tail, act := .swMeasure })[k]? =
      some { th with calls := th.calls.tail, act := .swMeasure } := by simp [hk]
  have h1 := step_word (s := ⟨cfg, disp, ⟨true, frame, cnt, d1, d2, w, .idle, none⟩, echo, pwm, mem,
    ⟨data, clk, latch, selU, selT, ⟨dir, out, line⟩, trig, ech⟩, ⟨sr, q, pulses⟩, tau, threads,
    hostMove k :: hostMove k :: hostMove k :: more, tick,
    commits⟩) (k := k) rfl hk ha hw (i := .swMeasure) (by decide)
  simp [exec, execSwMeasure, State.popCall, mapNext, State.pinDir, Pins.get, Pins.set, State.setPins, Ext.react, PinHandle.rises,
    State.enter, State.updCaller, State.caller, State.choice, hostMove, State.swGo, State.spend, PinHandle.turn,
    List.modify_modify_eq, Function.comp_def] at h1
  refine (run_succ (n := 2) h1).trans ?_
  refine (run_succ (n := 1) (step_swTurn (k := k) rfl hm rfl)).trans ?_
  refine (run_succ (n := 0) (step_swTurn (k := k) rfl hm rfl)).trans ?_
  rw [run_zero]
  simp [swTurn, swStartDelay, delayTurn, swStartLowMs, State.spend, State.pinWrite, PinHandle.write,
    Pins.get, Pins.set, State.setPins, Ext.react, PinHandle.rises, State.swGo, Nat.add_assoc]

/-- The end of the start signal once its delay is over: the line goes high and is released, three steps. -/
theorem run_swRelease {s : State} {k u : Nat} {th : Thread} {more : List Choice}
    (hs : s.script = hostMove k :: hostMove k :: hostMove k :: more) (hk : s.threads[k]? = some th) (ha : th.act = .swMeasure)
    (hp : s.sw.pc = .startDelay) (hwk : s.sw.wake = some u) (hu : u ≤ s.tau) (hd : s.pins.sw.dir = .output) :
    Sys2Proof.core.run 3 s = .next { s with
      sw := { s.sw with pc := .wait .ackLow .a, wake := none }
      pins := { s.pins with sw := ⟨.input, true, true⟩ }
      script := more
      tick := s.tick + 3 } := by
  obtain ⟨cfg, disp, sw, echo, pwm, mem, pins, ext, tau, threads, script, tick, commits⟩ := s
  obtain ⟨att, frame, cnt, d1, d2, w, pc, wake⟩ := sw
  obtain ⟨data, clk, latch, selU, selT, swp, trig, ech⟩ := pins
  obtain ⟨sr, q, pulses⟩ := ext
  obtain ⟨dir, out, line⟩ := swp
  simp only at hs hk hp hwk hu hd
  subst hs hp hwk hd
  have h1 := step_swTurn (s := ⟨cfg, disp, ⟨att, frame, cnt, d1, d2, w, .startDelay, some u⟩, echo, pwm, mem,
    ⟨data, clk, latch, selU, selT, ⟨.output, out, line⟩, trig, ech⟩, ⟨sr, q, pulses⟩, tau, threads,
    hostMove k :: hostMove k :: hostMove k :: more, tick, commits⟩)
    (k := k) rfl hk ha
  simp only [swTurn, swStartDelay, delayTurn, hu, if_true] at h1
  refine (run_succ (n := 2) h1).trans ?_
  refine (run_succ (n := 1) (step_swTurn (k := k) rfl hk ha)).trans ?_
  refine (run_succ (n := 0) (step_swTurn (k := k) rfl hk ha)).trans ?_
  rw [run_zero]
  simp [swTurn, State.spend, State.pinWrite, State.pinDir, PinHandle.write, PinHandle.turn,
    Pins.get, Pins.set, State.setPins, Ext.react, PinHandle.rises, State.swGo, Nat.add_assoc]

/-- The last three steps of a measurement: the line is restored and the verdict given. -/
theorem run_swFinish {s : State} {k : Nat} {th : Thread} {more : List Choice}
    (hs : s.script = hostMove k :: hostMove k :: hostMove k :: more) (hk : s.threads[k]? = some th) (ha : th.act = .swMeasure)
    (hp : s.sw.pc = .restoreDir) :
    Sys2Proof.core.run 3 s = .next { s with
      sw := { s.sw with pc := .idle }
      pins := { s.pins with sw := ⟨.output, true, true⟩ }
      threads := s.threads.modify k fun t => { t with
        act := .idle
        reply := .direct
        ret := some (t.reply.answer
          (.reading (checksumStatus (readingOf s.sw.frame)) (some (readingOf s.sw.frame)))) }
      script := more
      tick := s.tick + 3 } := by
  obtain ⟨cfg, disp, sw, echo, pwm, mem, pins, ext, tau, threads, script, tick, commits⟩ := s
  obtain ⟨att, frame, cnt, d1, d2, w, pc, wake⟩ := sw
  obtain ⟨data, clk, latch, selU, selT, swp, trig, ech⟩ := pins
  obtain ⟨sr, q, pulses⟩ := ext
  obtain ⟨dir, out, line⟩ := swp
  simp only at hs hk hp
  subst hs hp
  refine (run_succ (n := 2) (step_swTurn (k := k) rfl hk ha)).trans ?_
  refine (run_succ (n := 1) (step_swTurn (k := k) rfl hk ha)).trans ?_
  refine (run_succ (n := 0) (step_swTurn (k := k) rfl hk ha)).trans ?_
  rw [run_zero]
  simp [swTurn, swCheck, State.spend, State.pinWrite, State.pinDir, PinHandle.write, PinHandle.turn, State.giveBack, State.updCaller,
    State.caller, State.choice, hostMove,
    Pins.get, Pins.set, State.setPins, Ext.react, PinHandle.rises, State.swGo, Nat.add_assoc]

/-- The fields a measurement in its waits neither reads nor writes, and those that stay as they are. -/
structure SwWaiting (s t : State) : Prop where
  rest : t = { s with sw := t.sw, pins := { s.pins with sw := t.pins.sw }, tau := t.tau, script := t.script, tick := t.tick }
  dir : t.pins.sw.dir = .input

/-- The forty slots, one after the other: from the first wait of a slot, with `n` bits to come. -/
theorem run_slots {k : Nat} {th : Thread} (ha : th.act = .swMeasure) (slots : List (Nat × Nat)) :
    ∀ (s : State) (more : List Choice), slots ≠ [] → s.script = slots.flatMap (slotScript k) ++ more → s.threads[k]? = some th →
      s.sw.pc = .wait .bitFirst .a → s.pins.sw.dir = .input → s.sw.k + slots.length = swFrameBits →
      ∃ t, Sys2Proof.core.run (slots.flatMap (slotScript k)).length s = .next t ∧ t.script = more ∧
        t.sw.pc = .wait .tail .a ∧ t.sw.wake = s.sw.wake ∧ t.sw.attached = s.sw.attached ∧
        t.sw.frame = slots.foldl (fun f d => pushBit f (bitOf d.1 d.2)) s.sw.frame ∧ SwWaiting s t := by
  induction slots with
  | nil => intro s more h; exact absurd rfl h
  | cons d ds ih =>
    intro s more _ hs hk hp hd hn
    have h1 := run_swPoll (s := s) (k := k) (us := d.1) (st := .bitFirst) (th := th)
      (more := pollScript k .sw false d.2 ++ (ds.flatMap (slotScript k) ++ more))
      (by simp [hs, slotScript, SwWait.level]) hk ha hp hd
    have h2 := run_swPoll (k := k) (us := d.2) (st := .bitSecond) (th := th)
      (more := ds.flatMap (slotScript k) ++ more)
      (s := swDone .bitFirst d.1 { s with
        sw := { s.sw with wait := ⟨s.nowUs, true, s.nowUs + d.1⟩, pc := .wait .bitFirst .c }
        pins := { s.pins with sw := { s.pins.sw with line := true } }
        tau := s.tau + 1000 * d.1
        script := pollScript k .sw false d.2 ++ (ds.flatMap (slotScript k) ++ more)
        tick := s.tick + 5 }) rfl hk ha rfl hd
    have h12 := (run_add (n := 5) h1).trans h2
    simp only [swDone, swFrameBits] at h12 hn
    by_cases hds : ds = []
    · subst hds
      simp only [List.length_cons, List.length_nil] at hn
      have : s.sw.k + 1 = 40 := by omega
      simp only [this, if_true] at h12
      refine ⟨_, h12, rfl, rfl, rfl, rfl, rfl, ⟨rfl, hd⟩⟩
    · have hlen : 0 < ds.length := List.length_pos_iff.mpr hds
      simp only [List.length_cons] at hn
      have : ¬ (s.sw.k + 1 = 40) := by omega
      simp only [this, if_false] at h12
      obtain ⟨t, hr, hsc, hpc, hwk, hat, hf, hw⟩ := ih { s with
        sw := { s.sw with
          wait := ⟨(s.tau + 1000 * d.1) / 1000, false, (s.tau + 1000 * d.1) / 1000 + d.2⟩
          d1 := d.1
          d2 := d.2
          frame := pushBit s.sw.frame (bitOf d.1 d.2)
          k := s.sw.k + 1
          pc := .wait .bitFirst .a }
        pins := { s.pins with sw := { s.pins.sw with line := false } }
        tau := s.tau + 1000 * d.1 + 1000 * d.2
        script := ds.flatMap (slotScript k) ++ more
        tick := s.tick + 5 + 5 } more hds rfl hk rfl hd (by simp only [swFrameBits]; omega)
      refine ⟨t, ?_, hsc, hpc, hwk, hat, hf, ⟨?_, hw.dir⟩⟩
      · rw [List.flatMap_cons, List.length_append]
        exact (run_add (m := 10) h12).trans hr
      · exact hw.rest
/-- The trigger: the call, the ten microseconds and the end of the pulse: five steps. -/
theorem run_ecTrigger {s : State} {k : Nat} {th : Thread} {rest : List Call} {more : List Choice}
    (hs : s.script = hostMove k :: hostMove k :: passUs 10 :: hostMove k :: hostMove k :: more)
    (hk : s.threads[k]? = some th) (ha : th.act = .idle)
    (hw : th.calls = .word 0x3000000000 :: rest) (hat : s.echo.attached = true) (hp : s.echo.pc = .idle) (hwk : s.echo.wake = none)
    (hd : s.pins.trig.dir = .output) :
    Sys2Proof.core.run 5 s = .next { s with
      echo := { s.echo with pc := .wait .high .a }
      pins := { s.pins with trig := ⟨.output, false, false⟩ }
      tau := s.tau + 10000
      threads := s.threads.modify k fun t => { t with calls := t.calls.tail, act := .echoMeasure }
      script := more
      tick := s.tick + 5 } := by
  obtain ⟨cfg, disp, sw, echo, pwm, mem, pins, ext, tau, threads, script, tick, commits⟩ := s
  obtain ⟨att, t, dist, w, pc, wake⟩ := echo
  obtain ⟨data, clk, latch, selU, selT, swp, trig, ech⟩ := pins
  obtain ⟨sr, q, pulses⟩ := ext
  obtain ⟨dir, out, line⟩ := trig
  simp only at hs hk hp hat hwk hd
  subst hs hp hat hwk hd
  have hm : (threads.modify k fun t => { t with calls := t.calls.tail, act := .echoMeasure })[k]? =
      some { th with calls := th.calls.tail, act := .echoMeasure } := by simp [hk]
  have h1 := step_word (s := ⟨cfg, disp, sw, ⟨true, t, dist, w, .idle, none⟩, pwm, mem,
    ⟨data, clk, latch, selU, selT, swp, ⟨.output, out, line⟩, ech⟩, ⟨sr, q, pulses⟩, tau, threads,
    hostMove k :: hostMove k :: passUs 10 :: hostMove k :: hostMove k :: more, tick,
    commits⟩) (k := k) rfl hk ha hw (i := .echoMeasure) (by decide)
  simp [exec, execEchoMeasure, State.popCall, mapNext, State.pinWrite, Pins.get, Pins.set, State.setPins, Ext.react, PinHandle.rises,
    State.enter, State.updCaller, State.caller, State.choice, hostMove, State.ecGo, State.spend, PinHandle.write,
    List.modify_modify_eq, Function.comp_def] at h1
  refine (run_succ (n := 4) h1).trans ?_
  have h2 := step_ecTurn (s := ⟨cfg, disp, sw, ⟨true, t, dist, w, .trigDelay, none⟩, pwm, mem,
    ⟨data, clk, latch, selU, selT, swp, ⟨.output, true, true⟩, ech⟩, ⟨sr, q, pulses⟩, tau,
    (threads.modify k fun t => { t with calls := t.calls.tail, act := .echoMeasure }),
    hostMove k :: passUs 10 :: hostMove k :: hostMove k :: more, tick + 1,
    commits⟩) (k := k) rfl hm rfl
  refine (run_succ (n := 3) h2).trans ?_
  refine (run_succ (n := 2) (step_env rfl rfl)).trans ?_
  have h3 := step_ecTurn (s := ⟨cfg, disp, sw, ⟨true, t, dist, w, .trigDelay, some (tau + 10000)⟩, pwm, mem,
    ⟨data, clk, latch, selU, selT, swp, ⟨.output, true, true⟩, ech⟩, ⟨sr, q, pulses⟩, tau + 10000,
    (threads.modify k fun t => { t with calls := t.calls.tail, act := .echoMeasure }),
    hostMove k :: hostMove k :: more, tick + 3,
    commits⟩) (k := k) rfl hm rfl
  simp only [ecTurn, ecTrigDelay, delayTurn, Nat.le_refl, if_true] at h3
  refine (run_succ (n := 1) h3).trans ?_
  refine (run_succ (n := 0) (step_ecTurn (k := k) rfl hm rfl)).trans ?_
  rw [run_zero]
  simp [ecTurn, State.spend, State.pinWrite, PinHandle.write,
    Pins.get, Pins.set, State.setPins, Ext.react, PinHandle.rises, State.ecGo, Nat.add_assoc]

end Sys2Proof.Machine
end

