-- ==== Sys2Proof/Laws/PerInstr.lean ====
section
/-! SUPPORT. Statements about every instruction as syntax, one lemma per constructor. -/

namespace Sys2Proof.Laws.RowWord

/-- The encoded word lies in its row of the opcode table: `word & mask = match`. -/
def Statement (i : Instr) : Prop := encode i &&& (tableRow i).2 = (tableRow i).1

theorem dispSetDigits (t u : Byte) : Statement (.dispSetDigits t u) := by
  simp only [Statement, encode, mkWord, tableRow]
  ext i hi
  simp only [BitVec.getElem_and, BitVec.getElem_append]
  interval_cases i <;> simp

theorem dispStart : Statement .dispStart := by simp only [Statement]; decide

theorem dispStop : Statement .dispStop := by simp only [Statement]; decide

theorem swMeasure : Statement .swMeasure := by simp only [Statement]; decide

theorem echoMeasure : Statement .echoMeasure := by simp only [Statement]; decide

theorem pwmSetDuty (p : Int) : Statement (.pwmSetDuty p) := by
  simp only [Statement, encode, mkWord, tableRow]
  ext i hi
  simp only [BitVec.getElem_and, BitVec.getElem_append]
  interval_cases i <;> simp

end Sys2Proof.Laws.RowWord
end

