-- ==== Sys2Proof/Laws/Words.lean ====
section
/-! SUPPORT. The fields of a built word, and a word from its fields (30_encoding.md R90). -/

namespace Sys2Proof
/-- A bit of a built word: the low 32 from the argument, the others from the operation (30_encoding.md R90). -/
theorem getLsbD_mkWord (op : Byte) (arg : BitVec 32) (i : Nat) :
    (mkWord op arg).getLsbD i = if i < 32 then arg.getLsbD i else op.getLsbD (i - 32) :=
  (BitVec.getLsbD_append (x := op) (y := arg) (i := i)).trans (by cases h : decide (i < 32) <;> simp_all)

theorem argField_mkWord (op : Byte) (arg : BitVec 32) : argField (mkWord op arg) = arg := by
  apply BitVec.eq_of_getLsbD_eq; intro i hi
  simp [argField, getLsbD_mkWord, hi]

theorem opField_mkWord (op : Byte) (arg : BitVec 32) : opField (mkWord op arg) = op := by
  apply BitVec.eq_of_getLsbD_eq; intro i hi
  simp [opField, getLsbD_mkWord, hi]

theorem zeroField_mkWord (op : Byte) (arg : BitVec 32) : zeroField (mkWord op arg) = arg.extractLsb' 16 16 := by
  apply BitVec.eq_of_getLsbD_eq; intro i hi
  simp [zeroField, getLsbD_mkWord, hi, show 16 + i < 32 by omega]

theorem tensField_mkWord (op : Byte) (arg : BitVec 32) : tensField (mkWord op arg) = arg.extractLsb' 8 8 := by
  apply BitVec.eq_of_getLsbD_eq; intro i hi
  simp [tensField, getLsbD_mkWord, hi, show 8 + i < 32 by omega]

theorem unitsField_mkWord (op : Byte) (arg : BitVec 32) : unitsField (mkWord op arg) = arg.extractLsb' 0 8 := by
  apply BitVec.eq_of_getLsbD_eq; intro i hi
  simp [unitsField, getLsbD_mkWord, hi, show i < 32 by omega]

/-- A word is built from its own two fields (30_encoding.md R90). -/
theorem mkWord_fields (w : CmdWord) : mkWord (opField w) (argField w) = w := by
  apply BitVec.eq_of_getLsbD_eq; intro i hi
  rw [getLsbD_mkWord]
  split
  · rename_i h; simp [argField, h]
  · rename_i h; simp [opField, show i - 32 < 8 by omega, show 32 + (i - 32) = i by omega]

end Sys2Proof
end

