-- ==== Sys2Proof/Tests/Slice0.lean ====
section
/-! SUPPORT. The model's own tests: ill-formed terms refused, words read as 95_test_vectors.md reads them, single operations against its
vectors, and for every obligation with hypotheses a state and operands that meet them. -/

set_option linter.unusedSimpArgs false
set_option linter.unusedTactic false
set_option linter.unreachableTactic false
set_option linter.unnecessarySeqFocus false

namespace Sys2Proof.Tests

open Sys2Proof Sys2Proof.Machine

/-! ## Test states -/

/-- The state after reset with the open parameter at a known value, these callers and these choices. -/
def idle (ths : List Thread) (cs : List Choice) : State :=
  { State.reset with cfg := { defaultConfig with acceptLf := false }, threads := ths, script := cs }

/-- A caller inside of `a` with these calls to come. -/
def caller (a : Activity) (cs : List Call) : Thread := ⟨cs, a, .direct, none⟩

/-- Thread 0 moves; ENV accepts. -/
def accepted : List Choice := [hostMove 0]

/-- Thread 0 moves; ENV rejects a commit and an acquisition. -/
def rejected : List Choice := [⟨.host 0, 0, false, false⟩]

/-- Thread 0 moves; ENV acquires pins and rejects a commit. -/
def rejectedCommit : List Choice := [⟨.host 0, 0, false, true⟩]

/-- REFRESH moves. -/
def refreshMove : List Choice := [⟨.refresh, 7, true, true⟩]

/-- The display running at step `pc` of the loop with the pattern of digit 4, and its lines and the register as given. -/
def showing (pc : RfPc) (half : Half) (bit : Fin 8) (wake : Option Nat) (clk latch sel : Bool) (pulses : Nat) (sr : Byte)
    (ths : List Thread) (cs : List Choice) : State :=
  let s := idle ths cs
  { s with
    disp := { s.disp with running := true, stopReq := s.stopInProgress, half := half, pat := 0x66, bit := bit, holdUs := 300, pc := pc, wake := wake }
    pins := { s.pins with
      data := .driving ((0x66 : Byte).getLsbD bit.val)
      clk := .driving clk
      latch := .driving latch
      selUnits := .driving (sel && half == .units)
      selTens := .driving (sel && half == .tens) }
    ext := ⟨sr, 0x66, pulses⟩ }

/-- The display running with every line at rest. -/
def resting (pc : RfPc) (ths : List Thread) (cs : List Choice) : State := showing pc .units 7 none false false false 0 0 ths cs

/-- The display running with its byte in the outputs. -/
def holding (pc : RfPc) (half : Half) (wake : Option Nat) (sel : Bool) (cs : List Choice) : State :=
  showing pc half 0 wake false true sel 8 0x66 [] cs

/-- A measurement of the single-wire line at `pc`, with these registers and this pin, one thread inside of it. -/
def measuring (pc : SwPc) (frame : BitVec 40) (k d1 : Nat) (w : WaitLocals) (wake : Option Nat) (pin : PinHandle) (tau : Nat)
    (cs : List Choice) : State :=
  let s := idle [caller .swMeasure []] cs
  { s with
    sw := { s.sw with frame := frame, k := k, d1 := d1, wait := w, pc := pc, wake := wake }
    pins := { s.pins with sw := pin }
    tau := tau }

/-- An echo measurement at `pc`, one thread inside of it. -/
def ranging (pc : EcPc) (t : Nat) (w : WaitLocals) (wake : Option Nat) (tau : Nat) (cs : List Choice) : State :=
  let s := idle [caller .echoMeasure []] cs
  { s with
    echo := { s.echo with t := t, wait := w, pc := pc, wake := wake }
    pins := { s.pins with trig := .driving pc.trigHigh }
    tau := tau }

/-- The engine `e` not attached. -/
def detached (e : Engine) (ths : List Thread) (cs : List Choice) : State := (idle ths cs).dropInstance e

/-- The outcome is a next state of which `p` holds. -/
def gives (o : Host.Outcome State Fault Refusal) (p : State → Bool) : Bool :=
  match o with
  | .next t => p t
  | _ => false

/-! ## These states meet the invariant -/

theorem params_wf : ({ defaultConfig with acceptLf := false } : Config).wf = true := by decide

theorem idle_inv (cs : List Choice) (calls : List Call) : (idle [caller .idle calls] cs).Inv := by
  refine ⟨params_wf, rfl, ⟨?_, ?_, ?_, ?_, ?_, ?_, ?_⟩, ⟨?_, ?_, ?_, ?_⟩, ⟨?_, ?_, ?_, ?_, ?_, ?_⟩, ⟨?_, ?_, ?_, ?_⟩,
    ⟨?_, ?_, ?_, ?_, ?_, ?_, ?_⟩⟩ <;>
  simp [idle, caller, State.reset, Pins.reset, PinHandle.driving, PinHandle.drives, defaultConfig, selOn, selOff,
    State.atRefreshStep, State.restLines, State.dark, RfPc.isDelay, State.atSwStep, EcPc.trigHigh, State.stopInProgress,
    State.setInProgress]

/-- One thread in a display operation that needs no running task. -/
theorem active_inv (a : Activity) (h : a = .stopHold ∨ ∃ u, a = .setDigits u) (cs : List Choice) : (idle [caller a []] cs).Inv := by
  refine ⟨params_wf, rfl, ⟨?_, ?_, ?_, ?_, ?_, ?_, ?_⟩, ⟨?_, ?_, ?_, ?_⟩, ⟨?_, ?_, ?_, ?_, ?_, ?_⟩, ⟨?_, ?_, ?_, ?_⟩,
    ⟨?_, ?_, ?_, ?_, ?_, ?_, ?_⟩⟩ <;> rcases h with rfl | ⟨u, rfl⟩ <;>
  simp [idle, caller, State.reset, Pins.reset, PinHandle.driving, PinHandle.drives, defaultConfig, selOn, selOff,
    State.atRefreshStep, State.restLines, State.dark, RfPc.isDelay, State.atSwStep, EcPc.trigHigh, State.stopInProgress,
    State.setInProgress]

/-- A running display meets the invariant when what its step asks for holds. -/
theorem showing_inv {pc : RfPc} {half : Half} {bit : Fin 8} {wake : Option Nat} {clk latch sel : Bool} {pulses : Nat} {sr : Byte}
    {ths : List Thread} {cs : List Choice} (hpc : pc ≠ .idle)
    (hstep : (showing pc half bit wake clk latch sel pulses sr ths cs).atRefreshStep)
    (hlit : sel = true → clk = false ∧ latch = true ∧ bit = 0) (hw : wake ≠ none → pc.isDelay = true)
    (ht : ths = [] ∨ ∃ cs, ths = [caller .stopHold cs]) :
    (showing pc half bit wake clk latch sel pulses sr ths cs).Inv := by
  refine ⟨params_wf, rfl, ⟨?_, ?_, ?_, hstep, ?_, ?_, hw⟩, ⟨?_, ?_, ?_, ?_⟩, ⟨?_, ?_, ?_, ?_, ?_, ?_⟩, ⟨?_, ?_, ?_, ?_⟩,
    ⟨?_, ?_, ?_, ?_, ?_, ?_, ?_⟩⟩
  case refine_3 =>
    intro h
    have hs : sel = true := by
      revert h
      cases sel <;> simp [showing, idle, State.reset, Pins.reset, PinHandle.driving, defaultConfig, selOn]
    obtain ⟨h1, h2, h3⟩ := hlit hs
    subst h1 h2 h3
    exact ⟨rfl, rfl, rfl, by simp [showing, idle, PinHandle.driving]⟩
  all_goals
    rcases ht with rfl | ⟨cs, rfl⟩ <;> cases half <;> cases sel <;>
      simp [hpc, showing, idle, caller, State.reset, Pins.reset, PinHandle.driving, PinHandle.drives, defaultConfig, selOn, selOff,
        State.atSwStep, EcPc.trigHigh, State.stopInProgress, State.setInProgress]

theorem resting_inv {pc : RfPc} {ths : List Thread} {cs : List Choice}
    (hpc : pc ∈ [RfPc.check, .deselUnits, .deselTens, .lowerClk, .lowerLatch, .lowerWait, .load, .bitData, .exitUnits, .exitTens,
      .exitClk, .exitLatch, .exitDone]) (ht : ths = [] ∨ ∃ cs, ths = [caller .stopHold cs]) : (resting pc ths cs).Inv := by
  refine showing_inv ?_ ?_ (by decide) (by simp) ht
  · rintro rfl; revert hpc; decide
  · simp only [List.mem_cons, List.not_mem_nil, or_false] at hpc
    rcases hpc with rfl | rfl | rfl | rfl | rfl | rfl | rfl | rfl | rfl | rfl | rfl | rfl | rfl <;>
      simp [State.atRefreshStep, State.restLines, State.betweenShifts, State.shifting, State.shifted, State.dark, showing, idle,
        State.reset, Pins.reset, PinHandle.driving, defaultConfig, selOff]

/-- A byte being shifted, at the steps of one bit: `n` bits are in the register and `clk` is the clock. -/
theorem shifting_inv {pc : RfPc} {bit : Fin 8} {clk : Bool} {n : Nat} {cs : List Choice}
    (h : (pc, bit, clk, n) ∈ [(RfPc.bitDataWait, (7 : Fin 8), false, 0), (.bitClkHigh, 7, false, 0), (.bitHighWait, 7, true, 1),
      (.bitClkLow, 7, true, 1), (.bitLowWait, 7, false, 1), (.bitLowWait, 0, false, 8), (.latchRaise, 0, false, 8)])
    {wake : Option Nat} (hw : wake ≠ none → pc.isDelay = true) :
    (showing pc .units bit wake clk false false n ((0x66 : Byte) >>> (8 - n)) [] cs).Inv := by
  refine showing_inv ?_ ?_ (by simp) hw (.inl rfl)
  · rintro rfl; revert h; simp
  · simp only [List.mem_cons, List.not_mem_nil, or_false, Prod.mk.injEq] at h
    rcases h with h | h | h | h | h | h | h <;> obtain ⟨rfl, rfl, rfl, rfl⟩ := h <;>
      simp [State.atRefreshStep, State.shifting, State.shifted, State.dark, showing, idle, State.reset, Pins.reset, PinHandle.driving,
        defaultConfig, selOff] <;> decide

theorem holding_inv {pc : RfPc} {half : Half} {wake : Option Nat} {sel : Bool} {cs : List Choice}
    (h : pc ∈ [RfPc.latchWait, .selectOn] ∧ sel = false ∨ pc ∈ [RfPc.selectDraw, .holdWait, .holdEnd] ∧ sel = true)
    (hw : wake ≠ none → pc.isDelay = true) : (holding pc half wake sel cs).Inv := by
  refine showing_inv ?_ ?_ (by simp) hw (.inl rfl)
  · rintro rfl; revert h; simp
  · simp only [List.mem_cons, List.not_mem_nil, or_false] at h
    rcases h with ⟨h, rfl⟩ | ⟨h, rfl⟩
    · rcases h with rfl | rfl <;> cases half <;>
        simp [State.atRefreshStep, State.latched, State.showsHalf, State.dark, showing, idle, State.reset, Pins.reset,
          PinHandle.driving, defaultConfig, selOff, selOn]
    · rcases h with rfl | rfl | rfl <;> cases half <;>
        simp [State.atRefreshStep, State.latched, State.showsHalf, State.dark, showing, idle, State.reset, Pins.reset,
          PinHandle.driving, defaultConfig, selOff, selOn, holdMinUs, holdMaxUs]

theorem measuring_inv {pc : SwPc} {frame : BitVec 40} {k d1 : Nat} {w : WaitLocals} {wake : Option Nat} {pin : PinHandle} {tau : Nat}
    {cs : List Choice} (hpc : pc ≠ .idle) (hd : pin.dir = .output → pin.line = pin.out)
    (hstep : (measuring pc frame k d1 w wake pin tau cs).atSwStep) (hw : wake ≠ none → pc = .startDelay) :
    (measuring pc frame k d1 w wake pin tau cs).Inv := by
  refine ⟨params_wf, rfl, ⟨?_, ?_, ?_, ?_, ?_, ?_, ?_⟩, ⟨hd, hstep, ?_, hw⟩, ⟨?_, ?_, ?_, ?_, ?_, ?_⟩, ⟨?_, ?_, ?_, ?_⟩,
    ⟨?_, ?_, ?_, ?_, ?_, ?_, ?_⟩⟩ <;>
  simp [hpc, measuring, idle, caller, State.reset, Pins.reset, PinHandle.driving, PinHandle.drives, defaultConfig, selOn, selOff,
    State.atRefreshStep, State.restLines, State.dark, RfPc.isDelay, EcPc.trigHigh, State.stopInProgress, State.setInProgress]

theorem ranging_inv {pc : EcPc} {t : Nat} {w : WaitLocals} {wake : Option Nat} {tau : Nat} {cs : List Choice} (hpc : pc ≠ .idle)
    (hw : wake ≠ none → pc = .trigDelay) (ht : w.t0 ≤ tau / 1000) : (ranging pc t w wake tau cs).Inv := by
  refine ⟨params_wf, rfl, ⟨?_, ?_, ?_, ?_, ?_, ?_, ?_⟩, ⟨?_, ?_, ?_, ?_⟩, ⟨?_, ?_, ?_, ?_, ?_, hw⟩, ⟨?_, ?_, ?_, ?_⟩,
    ⟨?_, ?_, ?_, ?_, ?_, ?_, ?_⟩⟩
  case refine_15 => intro st sub h; cases sub <;> simp [waitLocalsOk] <;> exact ht
  all_goals
    simp [hpc, ranging, idle, caller, State.reset, Pins.reset, PinHandle.driving, PinHandle.drives, defaultConfig, selOn, selOff,
      State.atRefreshStep, State.restLines, State.dark, RfPc.isDelay, State.atSwStep, State.stopInProgress, State.setInProgress]

/-! ## Ill-formed terms are refused (30_encoding.md R96) -/

theorem test_wf_refuses_above : (Instr.pwmSetDuty 2147483648).wf = false := by decide

theorem test_wf_refuses_below : (Instr.pwmSetDuty (-2147483649)).wf = false := by decide

theorem test_wf_admits_bounds : (Instr.pwmSetDuty 2147483647).wf = true ∧ (Instr.pwmSetDuty (-2147483648)).wf = true ∧
    (Instr.dispSetDigits 255 255).wf = true := by decide

/-! ## Words written out bit by bit (95_test_vectors.md T-X1, T-X2) -/

theorem test_decode_display :
    decode 0b0001000000000000000000000000010000000010 = .ok (.dispSetDigits 4 2) ∧
    decode 0b0001000000000000000000000001000111011010 = .ok (.dispSetDigits 17 218) ∧
    decode 0b0001000100000000000000000000000000000000 = .ok .dispStart ∧
    decode 0b0001001000000000000000000000000000000000 = .ok .dispStop := by decide

theorem test_decode_sensors :
    decode 0b0010000000000000000000000000000000000000 = .ok .swMeasure ∧
    decode 0b0011000000000000000000000000000000000000 = .ok .echoMeasure := by decide

theorem test_decode_pwm :
    decode 0b0100000000000000000000000000000001001011 = .ok (.pwmSetDuty 75) ∧
    decode 0b0100000011111111111111111111111111111111 = .ok (.pwmSetDuty (-1)) := by decide

theorem test_decode_invalid :
    decode 0x0000000000 = .error .unknownOp ∧ decode 0x1300000000 = .error .unknownOp ∧
    decode 0x1000010402 = .error .nonzeroField ∧ decode 0x1100000001 = .error .nonzeroField ∧
    decode 0x2000000001 = .error .nonzeroField ∧ decode 0x3080000000 = .error .nonzeroField ∧
    decode 0x4100000000 = .error .unknownOp ∧ decode 0xFF00000000 = .error .unknownOp := by decide

theorem test_decode_table_words :
    decodeTableWord 40 0x1000000402 = some (.dispSetDigits 4 2) ∧ decodeTableWord 40 0x400000004B = some (.pwmSetDuty 75) ∧
    decodeTableWord 40 0x10000000000 = none := by decide

theorem test_encode : encode (.dispSetDigits 4 2) = 0x1000000402 ∧ encode (.pwmSetDuty (-1)) = 0x40FFFFFFFF := by decide

/-! ## Display (95_test_vectors.md T-D1, T-D2, P1) -/

theorem test_segments : (List.range 12).map (fun d => digitToSegments (idle [] []).cfg (BitVec.ofNat 8 d)) =
    [0x3F, 0x06, 0x5B, 0x4F, 0x66, 0x6D, 0x7D, 0x07, 0x7F, 0x6F, 0x79, 0x79] := by decide

theorem test_set_digits_first : gives (exec (.dispSetDigits 4 2) (idle [caller .idle []] accepted)) (fun t => decide (t.digitTens = 4 ∧ t.digitUnits = 0)) = true := by decide

theorem test_set_digits_whole : gives (Sys2Proof.core.run 2 (idle [caller .idle [.word 0x1000000402]] (accepted ++ accepted))) (fun t => decide (t.digitTens = 4 ∧ t.digitUnits = 2 ∧ t.threads.map Thread.ret = [some .void])) = true := by decide

theorem test_start : gives (exec .dispStart (idle [caller .idle []] accepted)) (fun t => decide (t.disp.running = true ∧ t.disp.stopReq = false ∧ t.disp.pc = .check)) = true := by decide

/-- D35: a start between the end of the task and the return of the caller that stopped it is refused. -/
theorem test_start_during_stop : (match exec .dispStart (idle [caller .idle [], caller .stopHold []] accepted) with
    | .refused .startDuringStop => true
    | _ => false) = true := by decide

theorem test_stop_lands_before_check : gives (refreshTurn
      { resting .check [] refreshMove with disp := { (resting .check [] []).disp with stopReq := true } }) (fun t => decide (t.disp.pc = .exitUnits)) = true := by decide

theorem test_clock_shifts_in : gives (refreshTurn (showing .bitClkHigh .units 5 none false false false 2 1 [] refreshMove)) (fun t => decide (t.ext.sr = 3 ∧ t.ext.pulses = 3)) = true := by decide

theorem test_load_error_glyph : gives (refreshTurn { resting .load [] refreshMove with mem := [(0, 4), (1, 12)] }) (fun t => decide (t.disp.pat = 0x79)) = true := by decide

/-! ## Single wire (95_test_vectors.md T-W6, T-S1 to T-S3, T-S10) -/

theorem test_poll_boundary :
    waitTurn true 100 false 1100 ⟨1000, false, 1099⟩ .c = .goesOn .b ⟨1000, false, 1100⟩ ∧
    waitTurn true 100 false 1101 ⟨1000, true, 1100⟩ .c = .done 101 ⟨1000, true, 1101⟩ ∧
    waitTurn true 100 false 1101 ⟨1000, false, 1100⟩ .c = .timeout ⟨1000, false, 1101⟩ := by decide

theorem test_bit_decision : bitOf 50 50 = false ∧ bitOf 49 50 = true ∧ bitOf 0 0 = false ∧ bitOf 0 1 = true ∧
    bitOf 70 26 = false := by decide

theorem test_frame_verdicts :
    checksumStatus (readingOf 0x370018004F) = .ok ∧ checksumStatus (readingOf 0x3700180050) = .checksumError ∧
    checksumStatus (readingOf 0xFFFF020101) = .ok ∧ (readingOf 0x28051B034B).temperature = 27 := by decide

theorem test_shift_order : pushBit (pushBit (pushBit 0 true) false) true = 5 := by decide

theorem test_nominal_frame : frameOf (nominalSlots 0x370018004F) = 0x370018004F := by decide +kernel

/-! ## Echo (95_test_vectors.md T-E1, V6) -/

theorem test_distances : [0, 5, 6, 588, 589, 1000, 13200].map (distanceOf (idle [] []).cfg) = [0, 0, 1, 99, 100, 170, 2244] := by
  decide

theorem test_distance_other_divisor :
    [59, 588, 1000, 13200].map (distanceOf { (idle [] []).cfg with echoDivisor := 1000000 }) = [1, 9, 17, 224] := by decide

/-! ## Duty (95_test_vectors.md T-P1, T-P2) -/

theorem test_duty_top : gives (exec (.pwmSetDuty 100) (idle [caller .idle []] accepted)) (fun t => decide (t.pwm.out = ⟨1000000, 1000000, true⟩ ∧ t.pwm.lastPercent = 100 ∧ t.threads.map Thread.ret = [some (.status .ok)])) = true := by decide

theorem test_duty_rejected : gives (exec (.pwmSetDuty 25) (idle [caller .idle []] rejected)) (fun t => decide (t.pwm.out = ⟨1000000, 500000, true⟩ ∧ t.commits = 1 ∧ t.threads.map Thread.ret = [some (.status .applyError)])) = true := by decide

/-! ## Character interface (95_test_vectors.md T-C1 to T-C4) -/

theorem test_display_writes :
    dispWriteInstr [0x34, 0x32] = .dispSetDigits 4 2 ∧ dispWriteInstr [0x37] = .dispSetDigits 0 7 ∧
    dispWriteInstr [0x0A] = .dispSetDigits 0 218 ∧ dispWriteInstr [0x2F, 0x3A] = .dispSetDigits 255 10 ∧
    dispWriteInstr [0x31, 0x32, 0x33] = .dispSetDigits 1 2 ∧ dispWriteCount defaultConfig [0x31, 0x32, 0x33] = 3 ∧
    dispWriteCount { defaultConfig with longWriteReturn := .two } [0x31, 0x32, 0x33] = 2 := by decide

theorem test_decimal : decimal 0 = [0x30] ∧ decimal 24 = [0x32, 0x34] ∧ decimal 255 = [0x32, 0x35, 0x35] := by decide

theorem test_distance_text :
    (distanceBytes 2244).drop 11 = [0x32, 0x32, 0x34, 0x2E, 0x34, 0x0A] ∧ (distanceBytes 9).drop 11 = [0x30, 0x2E, 0x39, 0x0A] := by
  decide

theorem test_parse :
    parsePercent false [0x37, 0x35] = some 75 ∧ parsePercent false [0x30, 0x30, 0x37] = some 7 ∧
    parsePercent false [0x2B, 0x35] = some 5 ∧ parsePercent false [0x2D, 0x31] = some (-1) ∧
    parsePercent false [0x37, 0x61] = none ∧ parsePercent false [0x20, 0x37] = none ∧ parsePercent false [0x2D] = none ∧
    parsePercent false [] = none ∧ parsePercent false (List.replicate 9 0x39) = some 999999999 ∧
    parsePercent false (0x31 :: List.replicate 9 0x30) = none := by decide

theorem test_parse_line_feed :
    parsePercent true [0x37, 0x35, 0x0A] = some 75 ∧ parsePercent false [0x37, 0x35, 0x0A] = none := by decide

/-! ## Reset and the host's two questions -/

theorem test_reset_quiescent : State.reset.quiescent = true := by decide

theorem test_fetch_word : gives (step (State.reset.withFetchWord 40 0x1000000402)) (fun t => decide (t.digitTens = 4)) = true := by decide

theorem test_fetch_duty : gives (step (State.reset.withFetchWord 40 0x400000004B)) (fun t => decide (t.pwm.lastPercent = 75)) = true := by decide

/-! ## Witnesses: the hypotheses of each obligation can be met together -/

theorem test_witness_words :
    (∀ i ∈ [Instr.dispSetDigits 0 255, .dispStart, .dispStop, .swMeasure, .echoMeasure, .pwmSetDuty 2147483647,
      .pwmSetDuty (-2147483648)], i.wf = true ∧ decode (encode i) = .ok i) ∧
    decode 0x1000010000 = .error .nonzeroField ∧ decode 0x1200000001 = .error .nonzeroField ∧
    decode 0x13FFFFFFFF = .error .unknownOp := by decide

theorem test_witness_StepRunsPresentedWord :
    (idle [caller .idle [.word 0x1100000000]] accepted).calls (.word 0x1100000000) ∧ decode 0x1100000000 = .ok .dispStart :=
  ⟨⟨rfl, _, rfl, rfl, rfl⟩, by decide⟩

theorem test_witness_MemoryAccess :
    Memory.wf [(0, 4), (1, 2)] = true ∧ Memory.wf [] = true ∧ (0 < 2 ∧ 1 = 1) ∧ (1 < 2 ∧ 1 = 1) ∧ ¬ (2 < 2 ∧ 1 = 1) ∧
    ¬ (0 < 2 ∧ 2 = 1) ∧ memRead 1 1 { idle [] [] with mem := [(0, 4), (1, 2)] } = .ok 2 ∧
    memRead 2 1 (idle [] []) = .error .memoryAccess ∧ memRead 0 2 (idle [] []) = .error .memoryAccess := by decide

theorem test_witness_digits : (9 : Byte).toNat = (9 : Fin 10).val ∧ 10 ≤ (10 : Byte).toNat ∧ 10 ≤ (255 : Byte).toNat ∧
    defaultConfig.wf = true ∧ (9 : Byte).toNat ≤ 9 := by decide

theorem test_witness_set_digits :
    (idle [caller .idle []] accepted).disp.attached = true ∧ Memory.wf (idle [caller .idle []] accepted).mem = true ∧
    (idle [caller (.setDigits 7) []] accepted).runs (.setDigits 7) ∧
    Memory.wf (idle [caller (.setDigits 7) []] accepted).mem = true :=
  ⟨rfl, rfl, ⟨rfl, _, rfl, rfl⟩, rfl⟩

theorem test_witness_start_stop :
    ((idle [caller .idle []] accepted).disp.attached = true ∧ (idle [caller .idle []] accepted).disp.running = false) ∧
    (idle [caller .idle []] accepted).stopInProgress = false ∧
    ((idle [caller .stopHold [], caller .idle []] accepted).disp.attached = true ∧
      (idle [caller .stopHold [], caller .idle []] accepted).disp.running = false ∧
      (idle [caller .stopHold [], caller .idle []] accepted).stopInProgress = true) ∧
    ((resting .load [caller .idle []] accepted).disp.attached = true ∧ (resting .load [caller .idle []] accepted).disp.running = true ∧
      (resting .load [caller .idle []] accepted).stopInProgress = false) := by decide

theorem test_witness_StopReturnsWhenExited :
    ((resting .load [caller .stopHold []] accepted).Inv ∧ (resting .load [caller .stopHold []] accepted).runs .stopHold ∧
      (resting .load [caller .stopHold []] accepted).disp.running = true) ∧
    ((idle [caller .stopHold []] accepted).Inv ∧ (idle [caller .stopHold []] accepted).runs .stopHold ∧
      (idle [caller .stopHold []] accepted).disp.running = false) := by
  exact ⟨⟨resting_inv (by decide) (.inr ⟨_, rfl⟩), ⟨rfl, _, rfl, rfl⟩, rfl⟩, active_inv _ (.inl rfl) _, ⟨rfl, _, rfl, rfl⟩, rfl⟩

theorem test_witness_RefreshTestsStop :
    (∀ b : Bool, let s : State := { resting .check [] refreshMove with disp := { (resting .check [] []).disp with stopReq := b } }
      s.disp.running = true ∧ s.disp.pc = .check ∧ s.disp.stopReq = b) ∧
    (resting .load [] refreshMove).disp.running = true ∧ (resting .load [] refreshMove).disp.pc ≠ .check := by decide

theorem test_witness_RefreshControlLines :
    ∀ pc ∈ [RfPc.deselUnits, .exitUnits, .deselTens, .exitTens, .lowerClk, .exitClk, .lowerLatch, .exitLatch, .exitDone],
      (resting pc [] refreshMove).Inv ∧ (resting pc [] refreshMove).disp.running = true ∧ (resting pc [] refreshMove).disp.pc = pc ∧
        ∃ t, refreshTurn (resting pc [] refreshMove) = .next t := by
  intro pc h
  refine ⟨resting_inv ?_ (.inl rfl), rfl, rfl, ?_⟩
  · revert h; revert pc; decide
  · simp only [List.mem_cons, List.not_mem_nil, or_false] at h
    rcases h with rfl | rfl | rfl | rfl | rfl | rfl | rfl | rfl | rfl <;> exact ⟨_, rfl⟩

theorem test_witness_RefreshSamplesDigit :
    (∀ h : Half, (showing .load h 7 none false false false 0 0 [] refreshMove).disp.running = true ∧
      (showing .load h 7 none false false false 0 0 [] refreshMove).disp.pc = .load) ∧
    gives (step (resting .load [] refreshMove)) (fun t => decide (t.disp.pat ≠ (resting .load [] refreshMove).disp.pat)) = true :=
  ⟨fun _ => ⟨rfl, rfl⟩, by decide⟩

theorem test_witness_RefreshShiftsBits :
    ((resting .bitData [] refreshMove).Inv ∧ (resting .bitData [] refreshMove).disp.running = true ∧
      gives (refreshTurn (resting .bitData [] refreshMove)) (fun t => decide (t.disp.pc = .bitDataWait)) = true) ∧
    ((showing .bitClkHigh .units 7 none false false false 0 (0x66 >>> 8) [] refreshMove).Inv ∧
      gives (refreshTurn (showing .bitClkHigh .units 7 none false false false 0 (0x66 >>> 8) [] refreshMove))
        (fun t => t.pins.clk.line) = true) ∧
    ((showing .bitClkLow .units 7 none true false false 1 (0x66 >>> 7) [] refreshMove).Inv ∧
      gives (refreshTurn (showing .bitClkLow .units 7 none true false false 1 (0x66 >>> 7) [] refreshMove))
        (fun t => !t.pins.clk.line) = true) ∧
    ((showing .bitLowWait .units 7 (some 0) false false false 1 (0x66 >>> 7) [] refreshMove).Inv ∧
      gives (refreshTurn (showing .bitLowWait .units 7 (some 0) false false false 1 (0x66 >>> 7) [] refreshMove))
        (fun t => decide (t.disp.pc = .bitData ∧ t.disp.bit = 6)) = true) ∧
    ((showing .bitLowWait .units 0 (some 0) false false false 8 (0x66 >>> 0) [] refreshMove).Inv ∧
      gives (refreshTurn (showing .bitLowWait .units 0 (some 0) false false false 8 (0x66 >>> 0) [] refreshMove))
        (fun t => decide (t.disp.pc = .latchRaise)) = true) :=
  ⟨⟨resting_inv (by decide) (.inl rfl), rfl, by decide⟩, ⟨shifting_inv (by decide) (by decide), by decide⟩,
    ⟨shifting_inv (by decide) (by decide), by decide⟩, ⟨shifting_inv (by decide) (by decide), by decide⟩,
    ⟨shifting_inv (by decide) (by decide), by decide⟩⟩

/-- The delays: their beginning, a turn before the deadline, a turn at the deadline. -/
theorem test_witness_delays :
    (∀ wake : Option Nat, wake = none ∨ wake = some 0 ∨ wake = some 1 →
      (showing .bitDataWait .units 7 wake false false false 0 (0x66 >>> 8) [] refreshMove).Inv ∧
      (showing .bitHighWait .units 7 wake true false false 1 (0x66 >>> 7) [] refreshMove).Inv ∧
      (showing .bitLowWait .units 0 wake false false false 8 (0x66 >>> 0) [] refreshMove).Inv ∧
      (holding .latchWait .units wake false refreshMove).Inv) ∧
    (showing .latchRaise .units 0 none false false false 8 (0x66 >>> 0) [] refreshMove).Inv ∧
    (∀ wake : Option Nat, wake = none ∨ wake = some 0 ∨ wake = some 1 →
      (showing .lowerWait .units 7 wake false false false 0 0 [] refreshMove).Inv ∧
      ∃ t, refreshTurn (showing .lowerWait .units 7 wake false false false 0 0 [] refreshMove) = .next t) := by
  refine ⟨fun wake _ => ⟨shifting_inv (by decide) (fun _ => rfl), shifting_inv (by decide) (fun _ => rfl),
    shifting_inv (by decide) (fun _ => rfl), holding_inv (by decide) (fun _ => rfl)⟩, shifting_inv (by decide) (by decide), ?_⟩
  rintro wake -
  refine ⟨showing_inv (by decide) ?_ (by decide) (fun _ => rfl) (.inl rfl), _, rfl⟩
  simp [State.atRefreshStep, State.restLines, State.dark, showing, idle, State.reset, Pins.reset, PinHandle.driving, defaultConfig,
    selOff]

theorem test_witness_RefreshHoldsDigit :
    ((holding .selectOn .units none false refreshMove).Inv ∧
      gives (refreshTurn (holding .selectOn .units none false refreshMove)) (fun t => t.pins.selUnits.line) = true) ∧
    ((holding .selectDraw .tens none true refreshMove).Inv ∧
      gives (refreshTurn (holding .selectDraw .tens none true refreshMove)) (fun t => decide (t.disp.holdUs = 257)) = true) ∧
    ((holding .holdWait .units none true refreshMove).Inv ∧ (holding .holdWait .units none true refreshMove).disp.wake = none ∧
      gives (refreshTurn (holding .holdWait .units none true refreshMove)) (fun t => decide (t.disp.wake = some 300000)) = true) ∧
    ((holding .holdWait .units (some 0) true refreshMove).Inv ∧
      gives (refreshTurn (holding .holdWait .units (some 0) true refreshMove)) (fun t => decide (t.disp.pc = .holdEnd)) = true) ∧
    (∀ h : Half, (holding .holdEnd h none true refreshMove).Inv ∧ (holding .holdEnd h none true refreshMove).disp.half = h ∧
      gives (refreshTurn (holding .holdEnd h none true refreshMove)) (fun t => decide (t.disp.pc ≠ .holdEnd)) = true) ∧
    drawFrom holdMinUs holdMaxUs 0 = 250 ∧ drawFrom holdMinUs holdMaxUs 100 = 350 := by
  refine ⟨⟨holding_inv (by decide) (by decide), by decide⟩, ⟨holding_inv (by decide) (by decide), by decide⟩,
    ⟨holding_inv (by decide) (by decide), rfl, by decide⟩, ⟨holding_inv (by decide) (by decide), by decide⟩, ?_, by decide⟩
  intro h
  exact ⟨holding_inv (by decide) (by decide), rfl, by cases h <;> decide⟩

theorem test_witness_clock_rises :
    (showing .bitClkHigh .units 7 none false false false 0 (0x66 >>> 8) [] refreshMove).Inv ∧
    gives (step (showing .bitClkHigh .units 7 none false false false 0 (0x66 >>> 8) [] refreshMove))
      (fun t => !(showing .bitClkHigh .units 7 none false false false 0 0 [] []).pins.clk.line && t.pins.clk.line) = true :=
  ⟨shifting_inv (by decide) (by decide), by decide⟩

theorem test_witness_latch_rises :
    (showing .latchRaise .units 0 none false false false 8 (0x66 >>> 0) [] refreshMove).Inv ∧
    gives (step (showing .latchRaise .units 0 none false false false 8 (0x66 >>> 0) [] refreshMove))
      (fun t => !(showing .latchRaise .units 0 none false false false 8 0 [] []).pins.latch.line && t.pins.latch.line) = true :=
  ⟨shifting_inv (by decide) (by decide), by decide⟩

theorem test_witness_HoldShowsPattern : ∀ h : Half, (holding .holdWait h none true refreshMove).Inv ∧
    (holding .holdWait h none true refreshMove).disp.pc.phase = .rfHold ∧ (holding .holdWait h none true refreshMove).disp.half = h ∧
    (holding .holdWait h none true refreshMove).shown h = some 0x66 := by
  intro h
  exact ⟨holding_inv (by decide) (by decide), rfl, rfl, by cases h <;> decide⟩

theorem test_witness_NoPinActivityWhenStopped :
    (idle [caller .idle [.word 0x400000004B]] accepted).Inv ∧
    (idle [caller .idle [.word 0x400000004B]] accepted).disp.attached = true ∧
    (idle [caller .idle [.word 0x400000004B]] accepted).disp.running = false ∧
    gives (step (idle [caller .idle [.word 0x400000004B]] accepted)) (fun t => decide (t.pwm.lastPercent = 75)) = true :=
  ⟨idle_inv _ _, rfl, rfl, by decide⟩

/-- A display that a caller wants stopped, at the test of the stop request. -/
def stopping (cs : List Choice) : State :=
  { resting .check [] cs with disp := { (resting .check [] []).disp with stopReq := true } }

theorem stopping_dispInv (cs : List Choice) : (stopping cs).DispInv := by
  have h := (resting_inv (pc := .check) (cs := cs) (by decide) (.inl rfl)).disp
  exact ⟨h.driven, h.notBoth, h.lit, h.atStep, h.running, h.exists_, h.delay⟩

theorem test_witness_StopComesNearer :
    (stopping refreshMove).DispInv ∧ (stopping refreshMove).disp.running = true ∧ (stopping refreshMove).disp.stopReq = true ∧
    (stopping refreshMove).refreshMoves = true ∧ (stopping [passUs 1]).refreshMoves = false ∧
    gives (step (stopping refreshMove)) (fun t => decide (refreshLeft t.disp = 5)) = true ∧
    gives (step (stopping [passUs 1])) (fun t => decide (refreshLeft t.disp = 6)) = true :=
  ⟨stopping_dispInv _, rfl, rfl, by decide, by decide, by decide, by decide⟩

theorem test_witness_StopEndsWithinOneCycle :
    (stopping refreshMove).DispInv ∧ (stopping refreshMove).disp.stopReq = true ∧
    ∀ m, m ≤ 1 → ∃ u, Sys2Proof.core.run m (stopping refreshMove) = .next u ∧ (State.disp u).running = true := by
  refine ⟨stopping_dispInv _, rfl, fun m hm => ?_⟩
  interval_cases m
  · exact ⟨_, rfl, rfl⟩
  · exact ⟨_, rfl, rfl⟩

theorem test_witness_DelayIsLowerBound :
    delayTurn 100 5 none = .starts 105 ∧ delayTurn 100 104 (some 105) = .held ∧ delayTurn 100 105 (some 105) = .over := by decide

theorem test_witness_SwMeasureStarts :
    (idle [caller .idle []] accepted).sw.attached = true ∧ (idle [caller .idle []] accepted).sw.pc = .idle := by decide

theorem test_witness_SwStartSignal :
    (measuring .startLow 0 0 0 ⟨0, false, 0⟩ none (.driving true) 0 accepted).Inv ∧
    (measuring .startDelay 0 0 0 ⟨0, false, 0⟩ none (.driving false) 0 accepted).Inv ∧
    ((measuring .startDelay 0 0 0 ⟨0, false, 0⟩ (some 0) (.driving false) 0 accepted).Inv ∧
      (swTurn (measuring .startDelay 0 0 0 ⟨0, false, 0⟩ (some 0) (.driving false) 0 accepted)).sw.pc = .relHigh) ∧
    (measuring .relHigh 0 0 0 ⟨0, false, 0⟩ none (.driving false) 0 accepted).Inv ∧
    (measuring .relIn 0 0 0 ⟨0, false, 0⟩ none (.driving true) 0 accepted).Inv :=
  ⟨measuring_inv (by decide) (fun _ => rfl) rfl (by decide), measuring_inv (by decide) (fun _ => rfl) ⟨rfl, rfl⟩ (by decide),
    ⟨measuring_inv (by decide) (fun _ => rfl) ⟨rfl, rfl⟩ (by decide), by decide⟩,
    measuring_inv (by decide) (fun _ => rfl) ⟨rfl, rfl⟩ (by decide),
    measuring_inv (by decide) (fun _ => rfl) ⟨rfl, rfl⟩ (by decide)⟩

/-- A caller in the last step of a poll for a high line that has read low, `us` microseconds after the poll began. -/
def polling (us : Nat) : State :=
  measuring (.wait .ackHigh .c) 0 0 0 ⟨0, false, 0⟩ none ⟨.input, true, false⟩ (1000 * us) accepted

theorem polling_inv (us : Nat) : (polling us).Inv :=
  measuring_inv (by decide) (by decide) ⟨rfl, rfl, trivial, Nat.zero_le _⟩ (by decide)

theorem test_witness_SwTimeoutAborts : ∀ us, us = 100 ∨ us = 101 →
    (polling us).Inv ∧ (polling us).runs .swMeasure ∧ (polling us).sw.pc = .wait .ackHigh .c ∧
    (polling us).sw.wait.l ≠ SwWait.ackHigh.level ∧
    (decide (SwWait.ackHigh.timeoutUs (polling us).cfg < (polling us).nowUs - (polling us).sw.wait.t0) = decide (us = 101)) := by
  rintro us (rfl | rfl) <;> exact ⟨polling_inv _, ⟨rfl, _, rfl, rfl⟩, rfl, by decide, by decide⟩

/-- The end of slot `k`: the line has been low for 50 and is read low again `d` microseconds after the rise. -/
def slotEnd (k d : Nat) : State :=
  measuring (.wait .bitSecond .c) 0 k 50 ⟨0, false, 0⟩ none ⟨.input, true, false⟩ (1000 * d) accepted

theorem test_witness_SwSlotDecidesBit : ∀ k, k = 16 ∨ k = 39 → ∀ d, (slotEnd k d).Inv ∧
    (slotEnd k d).sw.pc = .wait .bitSecond .c ∧ (slotEnd k d).sw.wait.l = false := by
  rintro k (rfl | rfl) d <;>
    refine ⟨measuring_inv (by decide) (by decide) ⟨rfl, rfl, ⟨by simp [measuring, swFrameBits], by simp [measuring]⟩, Nat.zero_le _⟩ (by decide), rfl, rfl⟩

theorem test_witness_SwVerdict :
    (measuring .check 0x3700180050 40 50 ⟨0, false, 0⟩ none (.driving true) 0 accepted).runs .swMeasure ∧
    (measuring .check 0x3700180050 40 50 ⟨0, false, 0⟩ none (.driving true) 0 accepted).sw.pc = .check ∧
    (measuring .check 0x3700180050 40 50 ⟨0, false, 0⟩ none (.driving true) 0 accepted).sw.frame =
      (0x37 : Byte) ++ (0x00 : Byte) ++ (0x18 : Byte) ++ (0x00 : Byte) ++ (0x50 : Byte) :=
  ⟨⟨rfl, _, rfl, rfl⟩, rfl, by decide⟩

theorem test_witness_SwMeasurementDecodesFrame : ∃ slots : List (Nat × Nat), slots.length = 40 ∧
    let s := idle [caller .idle [.word 0x2000000000]] (swScript 0 30 80 80 50 slots ++ [])
    s.sw.attached = true ∧ s.sw.pc = .idle ∧ s.sw.wake = none ∧ s.threads[0]? = some (caller .idle [.word 0x2000000000]) ∧
      s.script = swScript 0 30 80 80 50 slots ++ [] :=
  ⟨nominalSlots 0x370018004F, by simp [nominalSlots], rfl, rfl, rfl, rfl, rfl⟩

theorem test_witness_EchoMeasureStarts : (idle [caller .idle []] accepted).echo.attached = true ∧
    (idle [caller .idle []] accepted).echo.pc = .idle ∧ (idle [caller .idle []] accepted).pins.trig.dir = .output := by decide

theorem test_witness_EchoTriggerPulse :
    ((ranging .trigDelay 0 ⟨0, false, 0⟩ none 0 accepted).Inv ∧ (ranging .trigDelay 0 ⟨0, false, 0⟩ none 0 accepted).echo.wake = none) ∧
    ((ranging .trigDelay 0 ⟨0, false, 0⟩ (some 0) 0 accepted).Inv ∧
      (ecTurn (ranging .trigDelay 0 ⟨0, false, 0⟩ (some 0) 0 accepted)).echo.pc = .trigLow) ∧
    (ranging .trigLow 0 ⟨0, false, 0⟩ none 0 accepted).Inv :=
  ⟨⟨ranging_inv (by decide) (by decide) (Nat.zero_le _), rfl⟩,
    ⟨ranging_inv (by decide) (by decide) (Nat.zero_le _), by decide⟩, ranging_inv (by decide) (by decide) (Nat.zero_le _)⟩

/-- A caller in the last step of a poll for the echo that has read low, `us` microseconds after the poll began. -/
def awaitingEcho (us : Nat) : State := ranging (.wait .high .c) 0 ⟨0, false, 0⟩ none (1000 * us) accepted

theorem test_witness_EchoTimeoutAborts : ∀ us, us = 13200 ∨ us = 13201 → (awaitingEcho us).Inv ∧
    (awaitingEcho us).runs .echoMeasure ∧ (awaitingEcho us).echo.pc = .wait .high .c ∧
    (awaitingEcho us).echo.wait.l ≠ EcWait.high.level ∧
    (awaitingEcho us).nowUs - (awaitingEcho us).echo.wait.t0 = us := by
  rintro us (rfl | rfl) <;> exact ⟨ranging_inv (by decide) (by decide) (Nat.zero_le _), ⟨rfl, _, rfl, rfl⟩, rfl, by decide, rfl⟩

theorem test_witness_EchoMeasurementConverts :
    let s := idle [caller .idle [.word 0x3000000000]] (echoScript 0 450 1000 ++ [])
    s.Inv ∧ s.echo.attached = true ∧ s.echo.pc = .idle ∧ s.threads[0]? = some (caller .idle [.word 0x3000000000]) ∧
      s.script = echoScript 0 450 1000 ++ [] :=
  ⟨idle_inv _ _, rfl, rfl, rfl, rfl⟩

theorem test_witness_duty : (idle [caller .idle []] accepted).pwm.attached = true ∧
    (idle [caller .idle []] accepted).choice.accept = true ∧ (idle [caller .idle []] rejected).pwm.attached = true ∧
    (idle [caller .idle []] rejected).choice.accept = false ∧ dutyInRange 0 = true ∧ dutyInRange 100 = true ∧
    dutyInRange (-1) = false ∧ dutyInRange 101 = false := by decide

theorem test_witness_UndefinedRequestsRefused :
    ((resting .load [caller .stopHold []] accepted).disp.attached = true ∧
      (resting .load [caller .stopHold []] accepted).disp.running = true ∧
      (resting .load [caller .stopHold []] accepted).stopInProgress = true) ∧
    ((idle [] []).disp.attached = true ∧ (idle [] []).disp.running = false) ∧
    ((polling 5).sw.attached = true ∧ (polling 5).sw.pc ≠ .idle) ∧
    ((awaitingEcho 5).echo.attached = true ∧ (awaitingEcho 5).echo.pc ≠ .idle) := by decide

theorem test_witness_detached : ∀ e ∈ [Engine.disp, .sw, .echo, .pwm],
    (detached e [caller .idle []] accepted).attached e = false ∧ (detached e [caller .idle []] accepted).choice.acquire = true ∧
    (detached e [caller .idle []] accepted).choice.accept = true ∧ Memory.wf (detached e [caller .idle []] accepted).mem = true ∧
    (detached e [caller .idle []] rejected).choice.acquire = false ∧
    (detached .pwm [caller .idle []] rejectedCommit).choice.acquire = true ∧
    (detached .pwm [caller .idle []] rejectedCommit).choice.accept = false := by decide

theorem test_witness_DecimalParsesBack : parsePercent false (decimal 999999999) = some 999999999 ∧
    parsePercent true (decimal 99999999 ++ [0x0A]) = some 99999999 ∧
    parsePercent false (decimal 99999999 ++ [0x0A]) = none := by decide +kernel

theorem test_witness_DisplayWriteExpands : (idle [] []).cfg.longWriteReturn = .allBytes ∧
    { (idle [] []).cfg with longWriteReturn := .two }.longWriteReturn = .two := by decide

theorem test_witness_EmptyReads : ∀ c ∈ [Call.dispRead 0, .pwmRead 0, .swRead 1, .echoRead 1],
    gives (issue c (idle [caller .idle []] accepted)) (fun t => decide ((idle [caller .idle []] accepted).attached .sw = true ∧
      t.sw.pc = .idle ∧ t.echo.pc = .idle)) = true := by decide

theorem test_witness_PwmWriteParses : (idle [] []).pwm.attached = true ∧
    parsePercent (idle [] []).cfg.acceptLf [0x37, 0x61] = none ∧ parsePercent (idle [] []).cfg.acceptLf [0x37, 0x35] = some 75 := by
  decide

theorem test_witness_DetachWhenIdle :
    (∀ e ∈ [Engine.disp, .sw, .echo, .pwm], (idle [caller .idle []] accepted).attached e = true ∧
      (idle [caller .idle []] accepted).busy e = false) ∧
    (resting .load [caller .idle []] accepted).busy .disp = true ∧ (polling 5).busy .sw = true ∧
    (awaitingEcho 5).busy .echo = true := by decide

theorem detached_sensors (e : Engine) (cs : List Choice) :
    (detached e [caller .idle []] cs).SwInv ∧ (detached e [caller .idle []] cs).EchoInv := by
  refine ⟨⟨?_, ?_, ?_, ?_⟩, ?_, ?_, ?_, ?_, ?_, ?_⟩ <;> cases e <;>
    simp [detached, State.dropInstance, idle, State.reset, Pins.reset, PinHandle.driving, PinHandle.drives, State.atSwStep,
      EcPc.trigHigh]

theorem test_witness_AttachFailures (e : Engine) :
    (detached e [caller .idle []] rejected).SwInv ∧ (detached e [caller .idle []] rejected).EchoInv ∧
    (detached e [caller .idle []] rejected).attached e = false ∧ (detached e [caller .idle []] rejected).choice.acquire = false ∧
    (detached .pwm [caller .idle []] rejectedCommit).SwInv ∧ (detached .pwm [caller .idle []] rejectedCommit).EchoInv ∧
    (detached .pwm [caller .idle []] rejectedCommit).choice.accept = false :=
  ⟨(detached_sensors e _).1, (detached_sensors e _).2, by cases e <;> rfl, by cases e <;> rfl, (detached_sensors _ _).1, (detached_sensors _ _).2, rfl⟩

/-- A run in which thread 0 makes one turn that ends its operation, and then nothing happens but that time passes. -/
def endingRun (s t : State) : Nat → State
  | 0 => s
  | n + 1 => { t with tau := t.tau + n, tick := t.tick + n }

/-- The choices of that run. -/
def endingChoices : Nat → Choice
  | 0 => hostMove 0
  | _ + 1 => ⟨.env (.advance 1), 0, true, true⟩

/-- When that turn leaves the task not running and every thread idle with no call to make, such a run is fair. -/
theorem endingRun_fair {s : State} (h : gives (step (s.given (hostMove 0)))
    (fun t => !t.disp.running && t.threads.all fun th => th.act == .idle && th.calls.isEmpty) = true) :
    ∃ run choices, run 0 = s ∧ FairRun run choices := by
  cases hst : step (s.given (hostMove 0)) with
  | fault r => cases r
  | refused r => rw [hst] at h; cases h
  | next t =>
    simp only [hst, gives, Bool.and_eq_true, Bool.not_eq_true', List.all_eq_true, beq_iff_eq] at h
    have hno : ∀ a n, (endingRun s t (n + 1)).hasStep a = false := by
      intro a n
      cases a with
      | host k =>
        simp only [endingRun, State.hasStep]
        cases hk : t.threads[k]? with
        | none => rfl
        | some th =>
          have := h.2 th (List.mem_of_getElem? hk)
          simp only [this.1, this.2, Bool.not_true]
      | _ => simp [endingRun, State.hasStep, h.1]
    refine ⟨endingRun s t, endingChoices, rfl, ?_, fun a n => ⟨n + 1, Nat.le_succ n, .inr (hno a n)⟩, fun bound => ⟨bound + 2, ?_⟩⟩
    · rintro (_ | n)
      · simpa [endingRun, endingChoices] using hst
      · simp [endingRun, endingChoices, State.given, step, State.choice, agentTurn, envTurn, mapNext, State.spend, Nat.add_assoc]
    · simp only [endingRun]; omega

theorem test_witness_OperationsEnd :
    ∀ s ∈ [idle [caller (.setDigits 7) []] [], idle [caller .stopHold []] [],
        measuring .check 0x3700180050 40 50 ⟨0, false, 0⟩ none (.driving true) 0 [],
        ranging .convert 1000 ⟨0, false, 0⟩ none 0 []],
      (∃ run choices, run 0 = s ∧ FairRun run choices) ∧ s.Inv ∧ ∃ th, s.threads[0]? = some th ∧ th.act ≠ .idle := by
  intro s hs
  simp only [List.mem_cons, List.not_mem_nil, or_false] at hs
  rcases hs with rfl | rfl | rfl | rfl
  · exact ⟨endingRun_fair (by decide), active_inv _ (.inr ⟨_, rfl⟩) _, _, rfl, by decide⟩
  · exact ⟨endingRun_fair (by decide), active_inv _ (.inl rfl) _, _, rfl, by decide⟩
  · exact ⟨endingRun_fair (by decide), measuring_inv (by decide) (fun _ => rfl) ⟨rfl, rfl, rfl⟩ (by decide), _, rfl, by decide⟩
  · exact ⟨endingRun_fair (by decide), ranging_inv (by decide) (by decide) (Nat.zero_le _), _, rfl, by decide⟩

/-- A state that meets the invariant and has a next state, for the statements about every step. -/
theorem test_witness_steps :
    (polling 5).Inv ∧ gives (step (polling 5)) (fun _ => true) = true ∧
    (resting .bitData [] refreshMove).Inv ∧ gives (step (resting .bitData [] refreshMove)) (fun _ => true) = true ∧
    (idle [caller .idle [.word 0x3000000000]] accepted).Inv ∧
    gives (step (idle [caller .idle [.word 0x3000000000]] accepted)) (fun _ => true) = true :=
  ⟨polling_inv 5, by decide, resting_inv (by decide) (.inl rfl), by decide, idle_inv _ _, by decide⟩

/-- The cases of the statements about what an agent may touch. -/
theorem test_witness_agents :
    (resting .load [] refreshMove).choice.agent = .refresh ∧ (polling 5).runs .swMeasure ∧ (awaitingEcho 5).runs .echoMeasure ∧
    (idle [] [passUs 3]).choice.agent = .env (.advance 3000) ∧
    (idle [] [lineGoes .echo true]).choice.agent = .env (.setLine .echo true) ∧
    gives (step (idle [] [lineGoes .echo true])) (fun t => t.pins.echo.line) = true :=
  ⟨rfl, ⟨rfl, _, rfl, rfl⟩, ⟨rfl, _, rfl, rfl⟩, rfl, rfl, by decide⟩

/-- The state after reset, as it is, meets the invariant of the display. -/
theorem test_witness_DisplayInvKept : (idle [caller .idle []] refreshMove).DispInv ∧
    gives (step (idle [caller .idle []] refreshMove)) (fun _ => true) = true := ⟨(idle_inv _ _).disp, by decide⟩

end Sys2Proof.Tests
end

section
/-! What the turn of each agent makes of the whole state (10_state.md R20; 60_exceptions.md R232, R240), and the state after reset
(10_state.md R52). -/

namespace Sys2Proof.Machine

/-! ## The turns as updates of the state -/

/-- States with equal fields are equal. -/
theorem State.eq_of_fields {s t : State} (hcfg : s.cfg = t.cfg) (hdisp : s.disp = t.disp) (hsw : s.sw = t.sw)
    (hecho : s.echo = t.echo) (hpwm : s.pwm = t.pwm) (hmem : s.mem = t.mem) (hpins : s.pins = t.pins) (hext : s.ext = t.ext)
    (htau : s.tau = t.tau) (hthreads : s.threads = t.threads) (hscript : s.script = t.script) (htick : s.tick = t.tick)
    (hcommits : s.commits = t.commits) : s = t := by
  obtain ⟨⟩ := s
  obtain ⟨⟩ := t
  simp only [State.mk.injEq]
  exact ⟨hcfg, hdisp, hsw, hecho, hpwm, hmem, hpins, hext, htau, hthreads, hscript, htick, hcommits⟩

theorem refreshTurn_update {s u : State} (h : refreshTurn s = .next u) :
    u = { s with
      disp := u.disp, ext := u.ext, pins := { u.pins with sw := s.pins.sw, trig := s.pins.trig, echo := s.pins.echo } } := by
  obtain ⟨hcfg, hsw, hecho, hpwm, hmem, htau, hthreads, hscript, htick, hcommits, hpsw, hptrig, hpecho⟩ := refreshTurn_frame h
  have hpins : u.pins = { u.pins with sw := s.pins.sw, trig := s.pins.trig, echo := s.pins.echo } := by
    rw [← hpsw, ← hptrig, ← hpecho]
  exact State.eq_of_fields hcfg rfl hsw hecho hpwm hmem hpins rfl htau hthreads hscript htick hcommits

theorem swTurn_update (s : State) :
    swTurn s = { s with sw := (swTurn s).sw, threads := (swTurn s).threads, pins := { s.pins with sw := (swTurn s).pins.sw } } := by
  obtain ⟨h, hpins⟩ := swTurn_pins s
  apply State.eq_of_fields <;> simp [hpins, Pins.set]

theorem ecTurn_update (s : State) :
    ecTurn s =
      { s with echo := (ecTurn s).echo, threads := (ecTurn s).threads, pins := { s.pins with trig := (ecTurn s).pins.trig } } := by
  obtain ⟨h, hpins⟩ := ecTurn_pins s
  apply State.eq_of_fields <;> simp [hpins, Pins.set]

theorem swTurn_threads_length (s : State) : (swTurn s).threads.length = s.threads.length := by
  by_cases hp : s.sw.pc = .idle
  · simp [swTurn, hp]
  · obtain ⟨-, r, hr⟩ | ⟨-, hr⟩ := swTurn_returns s hp <;> simp [hr]

theorem ecTurn_threads_length (s : State) : (ecTurn s).threads.length = s.threads.length := by
  by_cases hp : s.echo.pc = .idle
  · simp [ecTurn, hp]
  · obtain ⟨-, r, hr⟩ | ⟨-, hr⟩ := ecTurn_returns s hp <;> simp [hr]

theorem step_onlyCaller {s t : State} {k : Nat} (hc : s.choice.agent = .host k) (h : step s = .next t) : OnlyCaller s t := by
  obtain ⟨u, hu, rfl⟩ := step_eq_next h
  rw [hc] at hu
  exact (hostTurn_onlyCaller hc hu : OnlyCaller s u)

/-! ## ENV -/

theorem envTurn_update (a : EnvAct) (s : State) :
    envTurn a s = { s with tau := (envTurn a s).tau, pins := (envTurn a s).pins, ext := (envTurn a s).ext } := by
  cases a with
  | advance ns => rfl
  | setLine p v => simp only [envTurn]; split <;> rfl

theorem envTurn_tau_le (a : EnvAct) (s : State) : s.tau ≤ (envTurn a s).tau := by
  cases a with
  | advance ns => exact Nat.le_add_right _ _
  | setLine p v => simp only [envTurn]; split <;> exact le_rfl

/-- ENV may set the line of an input pin and no more. -/
theorem envTurn_pin (a : EnvAct) (s : State) (q : Pin) :
    (envTurn a s).pins.get q = s.pins.get q ∨
      (s.pins.get q).dir = .input ∧ ∃ v, (envTurn a s).pins.get q = { s.pins.get q with line := v } := by
  cases a with
  | advance ns => exact .inl rfl
  | setLine p v =>
    simp only [envTurn]
    split
    · next hd =>
      by_cases hq : q = p
      · subst hq
        exact .inr ⟨hd, v, by simp⟩
      · exact .inl (by simp [Pins.get_set_ne _ _ _ _ hq])
    · exact .inl rfl

theorem envTurn_output {a : EnvAct} {s : State} {q : Pin} (h : (s.pins.get q).dir = .output) :
    (envTurn a s).pins.get q = s.pins.get q := by
  obtain heq | ⟨hin, -⟩ := envTurn_pin a s q
  · exact heq
  · rw [h] at hin; cases hin

theorem envTurn_dir_out (a : EnvAct) (s : State) (q : Pin) :
    ((envTurn a s).pins.get q).dir = (s.pins.get q).dir ∧ ((envTurn a s).pins.get q).out = (s.pins.get q).out := by
  obtain heq | ⟨-, v, heq⟩ := envTurn_pin a s q <;> rw [heq] <;> exact ⟨rfl, rfl⟩

/-- Settles O57: each clause is the frame of one agent's turn, with the choice spent. -/
theorem agentsTouchOnlyTheirOwn : Obligations.AgentsTouchOnlyTheirOwn := by
  intro s t h
  refine ⟨fun hc => ?_, fun ⟨hc, th, hk, ha⟩ => ?_, fun ⟨hc, th, hk, ha⟩ => ?_, fun a hc => ?_⟩
  · obtain ⟨u, hu, rfl⟩ := step_eq_next h
    rw [hc] at hu
    exact congrArg State.spend (refreshTurn_update hu)
  · have hothers := step_onlyCaller hc h
    rw [step_swTurn hc hk ha] at h
    cases h
    exact ⟨congrArg State.spend (swTurn_update s), swTurn_threads_length s, hothers⟩
  · have hothers := step_onlyCaller hc h
    rw [step_ecTurn hc hk ha] at h
    cases h
    exact ⟨congrArg State.spend (ecTurn_update s), ecTurn_threads_length s, hothers⟩
  · obtain ⟨u, hu, rfl⟩ := step_eq_next h
    rw [hc] at hu
    cases hu
    exact ⟨envTurn_tau_le a s, fun p => envTurn_output, envTurn_dir_out a s, congrArg State.spend (envTurn_update a s)⟩

/-! ## Reset -/

theorem defaultConfig_wf : defaultConfig.wf = true := by decide

theorem reset_restLines : State.reset.restLines := ⟨⟨rfl, rfl⟩, rfl, rfl, rfl⟩

/-- Settles O51. -/
theorem resetValues : Obligations.ResetValues :=
  ⟨rfl, rfl, rfl, rfl, rfl, rfl, rfl, rfl, rfl, rfl, ⟨rfl, rfl⟩, ⟨rfl, rfl⟩, ⟨rfl, rfl⟩, rfl, rfl, rfl, rfl, rfl, rfl⟩

theorem reset_dispInv : State.reset.DispInv where
  driven := ⟨⟨rfl, rfl⟩, ⟨rfl, rfl⟩, ⟨rfl, rfl⟩, ⟨rfl, rfl⟩, ⟨rfl, rfl⟩⟩
  notBoth h := by cases h.1
  lit h := by rcases h with h | h <;> cases h
  atStep := reset_restLines
  running := by decide
  exists_ h := by cases h
  delay h := absurd rfl h

theorem reset_swInv : State.reset.SwInv where
  driven _ := rfl
  atStep := rfl
  exists_ h := absurd rfl h
  delay h := absurd rfl h

theorem reset_echoInv : State.reset.EchoInv where
  driven := ⟨rfl, rfl⟩
  input := rfl
  trigger := rfl
  locals _ _ h := by cases h
  exists_ h := absurd rfl h
  delay h := absurd rfl h

theorem reset_pwmInv : State.reset.PwmInv where
  percent := by decide
  period := rfl
  duty := rfl
  enabled := rfl

/-- No caller exists yet. -/
theorem reset_callersInv : State.reset.CallersInv where
  measuringSw := rfl
  measuringEcho := rfl
  stopping := Nat.zero_le 1
  stopAsked h := by cases h
  idleDirect th h := by cases h
  stoppingExists h := by cases h
  settingExists h := by cases h

/-- Settles O52, engine by engine. -/
theorem resetMeetsInv : Obligations.ResetMeetsInv where
  params := defaultConfig_wf
  memory := rfl
  disp := reset_dispInv
  sw := reset_swInv
  echo := reset_echoInv
  pwm := reset_pwmInv
  callers := reset_callersInv

end Sys2Proof.Machine
end

section
/-! What every agent leaves of the PwmState the collaborator holds and of the DisplayState memory (10_state.md R45; 20_memory.md R61;
43_pwm.md R189 to R192). -/

namespace Sys2Proof.Machine

variable {s t u : State}

/-- Going from `s` to `t` keeps the invariant of the duty-cycle engine and the canonical form of the memory. -/
structure KeepsPwmMem (s t : State) : Prop where
  pwm : s.PwmInv → t.PwmInv
  mem : Memory.wf s.mem = true → Memory.wf t.mem = true

theorem State.PwmInv.congr (hs : s.PwmInv) (hp : t.pwm.lastPercent = s.pwm.lastPercent) (ho : t.pwm.out = s.pwm.out) : t.PwmInv := by
  obtain ⟨hpercent, hperiod, hduty, henabled⟩ := hs
  constructor <;> simpa [hp, ho]

theorem KeepsPwmMem.of_eq (hp : t.pwm = s.pwm) (hm : t.mem = s.mem) : KeepsPwmMem s t :=
  ⟨fun h => h.congr (by rw [hp]) (by rw [hp]), fun h => hm ▸ h⟩

theorem KeepsPwmMem.trans (hu : KeepsPwmMem s u) (ht : KeepsPwmMem u t) : KeepsPwmMem s t :=
  ⟨ht.pwm ∘ hu.pwm, ht.mem ∘ hu.mem⟩

/-- Any percentage in range makes a PwmState that fits it: nothing is cut off by the width of the fields (30_encoding.md R104). -/
theorem pwmInv_of_percent {n : Nat} (hn : n ≤ 100) (hp : t.pwm.lastPercent = n) (ho : t.pwm.out = pwmStateOf n) : t.PwmInv := by
  constructor
  · rw [hp]; exact hn
  · rw [ho]; rfl
  · rw [ho, hp]
    simp only [pwmStateOf, dutyNsOf, pwmPeriodNs, BitVec.toNat_ofNat]
    omega
  · rw [ho]; rfl

theorem keeps_memWrite {a n v : Nat} (h : memWrite a n v s = .ok t) : KeepsPwmMem s t := by
  obtain ⟨ha, -, rfl⟩ := memWrite_eq_ok h
  exact ⟨fun h => h.congr rfl rfl, Memory.wf_write _ _ _ ha⟩

/-- A commit of a percentage in range, accepted or not. -/
theorem keeps_commitDuty {n : Nat} (hn : n ≤ 100) : KeepsPwmMem s (commitDuty n s) := by
  by_cases hc : s.choice.accept = true
  · refine ⟨fun _ => pwmInv_of_percent hn ?_ ?_, ?_⟩ <;> simp [commitDuty, hc]
  · apply KeepsPwmMem.of_eq <;> simp [commitDuty, hc]

theorem continueWith_eq_next {α : Type} {r : Except Refusal α} {f : α → Host.Outcome State Fault Refusal}
    (h : continueWith r f = .next t) : ∃ x, r = .ok x ∧ f x = .next t := by
  cases r with
  | ok x => exact ⟨x, rfl, h⟩
  | error e => cases h

theorem keeps_execDispSetDigits {d u : Byte} (h : execDispSetDigits d u s = .next t) : KeepsPwmMem s t := by
  unfold execDispSetDigits at h
  split at h
  · obtain ⟨w, hw, hnext⟩ := continueWith_eq_next h
    cases hnext
    exact (keeps_memWrite hw).trans (.of_eq rfl rfl)
  · cases h

theorem keeps_setDigitsSecond {u : Byte} (h : setDigitsSecond u s = .next t) : KeepsPwmMem s t := by
  obtain ⟨w, hw, hnext⟩ := continueWith_eq_next h
  cases hnext
  exact (keeps_memWrite hw).trans (.of_eq rfl rfl)

theorem dutyInRange_iff {p : Int} : dutyInRange p = true ↔ 0 ≤ p ∧ p ≤ 100 :=
  decide_eq_true_iff (p := pwmMinPercent ≤ p ∧ p ≤ pwmMaxPercent)

theorem keeps_execPwmSetDuty {p : Int} (h : execPwmSetDuty p s = .next t) : KeepsPwmMem s t := by
  unfold execPwmSetDuty at h
  split at h
  · cases h
    split
    · next hr =>
      have hle := (dutyInRange_iff.mp hr).2
      exact keeps_commitDuty (by omega)
    · exact .of_eq rfl rfl
  · cases h

theorem keeps_exec {i : Instr} (h : exec i s = .next t) : KeepsPwmMem s t := by
  cases i with
  | dispSetDigits d u => exact keeps_execDispSetDigits h
  | pwmSetDuty p => exact keeps_execPwmSetDuty h
  | _ =>
    simp only [exec, execDispStart, execDispStop, execSwMeasure, execEchoMeasure] at h
    repeat' split at h
    all_goals cases h
    all_goals exact .of_eq rfl rfl

/-- The default commit of attach is one of a percentage in range; if it is rejected nothing is kept of it. -/
theorem keeps_attachPwm : KeepsPwmMem s (attachPwm s) := by
  by_cases hc : s.choice.accept = true
  · refine ⟨fun _ => pwmInv_of_percent (n := pwmDefaultPercent) (by decide) ?_ ?_, ?_⟩ <;> simp [attachPwm, hc]
  · apply KeepsPwmMem.of_eq <;> simp [attachPwm, hc]

theorem keeps_attachDisp : KeepsPwmMem s (attachDisp s) :=
  ⟨fun h => h.congr rfl rfl, fun h => Memory.wf_write _ _ _ Nat.one_lt_two (Memory.wf_write _ _ _ Nat.zero_lt_two h)⟩

theorem keeps_attach {e : Engine} (h : attach e s = .next t) : KeepsPwmMem s t := by
  unfold attach at h
  split at h
  · cases h
  · cases h
    split
    · cases e with
      | disp => exact keeps_attachDisp.trans (.of_eq rfl rfl)
      | sw | echo => exact .of_eq rfl rfl
      | pwm => exact keeps_attachPwm
    · exact .of_eq (by simp) (by simp)

theorem keeps_detach {e : Engine} (h : detach e s = .next t) : KeepsPwmMem s t := by
  unfold detach at h
  repeat' split at h
  all_goals cases h
  cases e with
  | pwm => exact ⟨fun h => h.congr rfl rfl, id⟩
  | _ => exact .of_eq rfl rfl

theorem keeps_answerAtOnce {e : Engine} {r : Return} (h : answerAtOnce e r s = .next t) : KeepsPwmMem s t := by
  unfold answerAtOnce at h
  split at h <;> cases h
  exact .of_eq rfl rfl

theorem keeps_exec_setReply {i : Instr} {r : Reply} (h : exec i (s.setReply r) = .next t) : KeepsPwmMem s t :=
  .trans (u := s.setReply r) (.of_eq rfl rfl) (keeps_exec h)

theorem keeps_issue {c : Call} (h : issue c s = .next t) : KeepsPwmMem s t := by
  cases c with
  | word w =>
    simp only [issue, present] at h
    split at h
    · exact keeps_exec h
    · cases h
  | attach e => exact keeps_attach h
  | detach e => exact keeps_detach h
  | dispWrite bs => exact keeps_exec_setReply h
  | dispRead off => exact keeps_answerAtOnce h
  | swRead off => simp only [issue, issueSwRead] at h; split at h <;> [exact keeps_exec_setReply h; exact keeps_answerAtOnce h]
  | swWrite bs => cases h
  | echoRead off => simp only [issue, issueEchoRead] at h; split at h <;> [exact keeps_exec_setReply h; exact keeps_answerAtOnce h]
  | echoWrite bs => cases h
  | pwmWrite bs => simp only [issue, issuePwmWrite] at h; split at h <;> [exact keeps_exec_setReply h; exact keeps_answerAtOnce h]
  | pwmRead off => exact keeps_answerAtOnce h

theorem keeps_hostTurn {k : Nat} (h : hostTurn k s = .next t) : KeepsPwmMem s t := by
  unfold hostTurn at h
  split at h
  · cases h; exact .of_eq rfl rfl
  · next th _ =>
    cases ha : th.act with
    | idle =>
      simp only [ha] at h
      split at h
      · cases h; exact .of_eq rfl rfl
      · exact .trans (u := s.popCall k) (.of_eq rfl rfl) (keeps_issue h)
    | setDigits u =>
      simp only [ha] at h
      exact keeps_setDigitsSecond h
    | stopHold =>
      simp only [ha, stopHoldTurn] at h
      cases h
      split <;> exact .of_eq rfl rfl
    | swMeasure =>
      simp only [ha] at h
      cases h
      exact .of_eq (swTurn_pwm s) (swTurn_mem s)
    | echoMeasure =>
      simp only [ha] at h
      cases h
      exact .of_eq (ecTurn_pwm s) (ecTurn_mem s)

theorem keeps_step (h : step s = .next t) : KeepsPwmMem s t := by
  obtain ⟨u, hu, rfl⟩ := step_eq_next h
  refine .trans ?_ (.of_eq (u.spend_pwm) (u.spend_mem))
  cases ha : s.choice.agent with
  | host k =>
    rw [ha] at hu
    exact keeps_hostTurn hu
  | refresh =>
    rw [ha] at hu
    obtain ⟨-, -, -, hpwm, hmem, -⟩ := refreshTurn_frame hu
    exact .of_eq hpwm hmem
  | env a =>
    rw [ha] at hu
    cases hu
    rw [envTurn_update]
    exact .of_eq rfl rfl
  | call k c =>
    rw [ha] at hu
    cases hu
    simp only [callArrives]
    split <;> exact .of_eq rfl rfl

/-- Settles O55: every step keeps both, whatever else holds. -/
theorem pwmAndMemoryInvKept : Obligations.PwmAndMemoryInvKept := fun _ _ hs h =>
  ⟨(keeps_step h).pwm hs.pwm, (keeps_step h).mem hs.memory⟩

end Sys2Proof.Machine
end

section
/-! What a step makes of the working registers that no step can read any more (10_state.md R52; 93_implementation_defined.md U15):
setting them back before a turn changes its outcome in no register that a later step can read. -/

namespace Sys2Proof.Machine

variable (s : State)

/-- The outcome of a turn, up to the working registers that are dead after it, does not depend on those that are dead before it. -/
def ReadsNoDead (turn : State → Host.Outcome State Fault Refusal) : Prop :=
  ∀ s, mapNext State.eraseDead (turn s.eraseDead) = mapNext State.eraseDead (turn s)

/-- The turn neither reads nor writes a working register, nor the output latch of `ECHO`, and keeps every phase: erasing before it
is erasing after it. -/
def IgnoresDead (turn : State → Host.Outcome State Fault Refusal) : Prop :=
  ∀ s, turn s.eraseDead = mapNext State.eraseDead (turn s)

/-! ## Erasing keeps the phase, the deadline and all that is no working register -/

@[simp] theorem State.eraseDead_choice : s.eraseDead.choice = s.choice := rfl
@[simp] theorem State.eraseDead_cfg : s.eraseDead.cfg = s.cfg := rfl
@[simp] theorem State.eraseDead_disp : s.eraseDead.disp = s.disp.eraseDead := rfl
@[simp] theorem State.eraseDead_sw : s.eraseDead.sw = s.sw.eraseDead := rfl
@[simp] theorem State.eraseDead_echo : s.eraseDead.echo = s.echo.eraseDead := rfl
@[simp] theorem State.eraseDead_pwm : s.eraseDead.pwm = s.pwm := rfl
@[simp] theorem State.eraseDead_mem : s.eraseDead.mem = s.mem := rfl
@[simp] theorem State.eraseDead_tau : s.eraseDead.tau = s.tau := rfl
@[simp] theorem State.eraseDead_threads : s.eraseDead.threads = s.threads := rfl
@[simp] theorem State.eraseDead_nowUs : s.eraseDead.nowUs = s.nowUs := rfl
@[simp] theorem State.eraseDead_stopInProgress : s.eraseDead.stopInProgress = s.stopInProgress := rfl
@[simp] theorem State.eraseDead_setInProgress : s.eraseDead.setInProgress = s.setInProgress := rfl

@[simp] theorem State.eraseDead_pinDirOf (p : Pin) : (s.eraseDead.pins.get p).dir = (s.pins.get p).dir := by cases p <;> rfl
@[simp] theorem State.eraseDead_pinRead (p : Pin) : s.eraseDead.pinRead p = s.pinRead p := by cases p <;> rfl

@[simp] theorem Disp.eraseDead_attached (d : Disp) : d.eraseDead.attached = d.attached := rfl
@[simp] theorem Disp.eraseDead_running (d : Disp) : d.eraseDead.running = d.running := rfl
@[simp] theorem Disp.eraseDead_stopReq (d : Disp) : d.eraseDead.stopReq = d.stopReq := rfl
@[simp] theorem Disp.eraseDead_pc (d : Disp) : d.eraseDead.pc = d.pc := rfl
@[simp] theorem Disp.eraseDead_wake (d : Disp) : d.eraseDead.wake = d.wake := rfl

@[simp] theorem Sw.eraseDead_attached (x : Sw) : x.eraseDead.attached = x.attached := by unfold Sw.eraseDead; split <;> rfl
@[simp] theorem Sw.eraseDead_pc (x : Sw) : x.eraseDead.pc = x.pc := by unfold Sw.eraseDead; split <;> rfl
@[simp] theorem Sw.eraseDead_wake (x : Sw) : x.eraseDead.wake = x.wake := by unfold Sw.eraseDead; split <;> rfl

@[simp] theorem Echo.eraseDead_attached (x : Echo) : x.eraseDead.attached = x.attached := by unfold Echo.eraseDead; split <;> rfl
@[simp] theorem Echo.eraseDead_pc (x : Echo) : x.eraseDead.pc = x.pc := by unfold Echo.eraseDead; split <;> rfl
@[simp] theorem Echo.eraseDead_wake (x : Echo) : x.eraseDead.wake = x.wake := by unfold Echo.eraseDead; split <;> rfl

@[simp] theorem State.eraseDead_attached (e : Engine) : s.eraseDead.attached e = s.attached e := by
  cases e <;> simp [State.attached]

@[simp] theorem State.eraseDead_busy (e : Engine) : s.eraseDead.busy e = s.busy e := by
  cases e <;> simp [State.busy]

/-! ## The registers of each engine -/

theorem Disp.eraseDead_half {d : Disp} (h : d.pc.readsHalf = true) : d.eraseDead.half = d.half := if_pos h

theorem Disp.eraseDead_pat {d : Disp} (h : d.pc.phase = .rfBit) : d.eraseDead.pat = d.pat := if_pos h

theorem Disp.eraseDead_bit {d : Disp} (h : d.pc.phase = .rfBit) : d.eraseDead.bit = d.bit := if_pos h

theorem Disp.eraseDead_holdUs {d : Disp} (h : d.pc = .holdWait) : d.eraseDead.holdUs = d.holdUs := if_pos h

/-- Every register that can be read from the phase `q` on, before it is written, can be so from the phase `p` on. -/
def RfPc.keeps (p q : RfPc) : Bool :=
  (q.readsHalf → p.readsHalf) && (q.phase = .rfBit → p.phase = .rfBit) && (q = .holdWait → p = .holdWait)

@[simp] theorem RfPc.keeps_self (p : RfPc) : p.keeps p = true := by simp [RfPc.keeps]

theorem Disp.eraseDead_go (d : Disp) {q : RfPc} (w : Option Nat) (h : d.pc.keeps q = true) :
    ({ d.eraseDead with pc := q, wake := w } : Disp).eraseDead = ({ d with pc := q, wake := w } : Disp).eraseDead := by
  simp only [RfPc.keeps, Bool.and_eq_true, decide_eq_true_eq] at h
  obtain ⟨⟨hhalf, hbit⟩, hhold⟩ := h
  simp +contextual [Disp.eraseDead, hhalf, hbit, hhold]

@[simp] theorem Disp.eraseDead_idem (d : Disp) : d.eraseDead.eraseDead = d.eraseDead :=
  d.eraseDead_go d.wake d.pc.keeps_self

@[simp] theorem Sw.eraseDead_idem (x : Sw) : x.eraseDead.eraseDead = x.eraseDead := by
  obtain ⟨_, _, _, _, _, _, pc, _⟩ := x
  cases pc with
  | wait st sub => cases st <;> cases sub <;> rfl
  | _ => rfl

@[simp] theorem Echo.eraseDead_idem (x : Echo) : x.eraseDead.eraseDead = x.eraseDead := by
  obtain ⟨_, _, _, _, pc, _⟩ := x
  cases pc with
  | wait st sub => cases sub <;> rfl
  | _ => rfl

@[simp] theorem State.eraseDead_idem : s.eraseDead.eraseDead = s.eraseDead := by
  unfold State.eraseDead
  simp

theorem mapNext_eraseDead_idem (o : Host.Outcome State Fault Refusal) :
    mapNext State.eraseDead (mapNext State.eraseDead o) = mapNext State.eraseDead o := by
  cases o <;> simp [mapNext]

theorem IgnoresDead.readsNoDead {turn : State → Host.Outcome State Fault Refusal} (h : IgnoresDead turn) : ReadsNoDead turn :=
  fun s => by rw [h s, mapNext_eraseDead_idem]

/-- A turn that begins with an operation on the callers reads no dead register if its rest reads none. -/
theorem ReadsNoDead.after {turn : State → Host.Outcome State Fault Refusal} (h : ReadsNoDead turn) {f : State → State}
    (hf : ∀ s : State, f s.eraseDead = (f s).eraseDead) : ReadsNoDead fun s => turn (f s) :=
  fun s => by simp only [hf]; exact h (f s)

theorem State.eraseDead_setDisp {d d' : Disp} (h : d.eraseDead = d'.eraseDead) :
    ({ s.eraseDead with disp := d } : State).eraseDead = ({ s with disp := d' } : State).eraseDead := by
  unfold State.eraseDead
  simp [h]

theorem State.eraseDead_setSw {x y : Sw} (h : x.eraseDead = y.eraseDead) :
    ({ s.eraseDead with sw := x } : State).eraseDead = ({ s with sw := y } : State).eraseDead := by
  unfold State.eraseDead
  simp [h]

theorem State.eraseDead_setEcho {x y : Echo} (h : x.eraseDead = y.eraseDead) :
    ({ s.eraseDead with echo := x } : State).eraseDead = ({ s with echo := y } : State).eraseDead := by
  unfold State.eraseDead
  simp [h]

/-! ## Operations that read no working register -/

theorem State.setReply_eraseDead (r : Reply) : s.eraseDead.setReply r = (s.setReply r).eraseDead := rfl
theorem State.giveBack_eraseDead (r : Return) : s.eraseDead.giveBack r = (s.giveBack r).eraseDead := rfl
theorem State.popCall_eraseDead (k : Nat) : s.eraseDead.popCall k = (s.popCall k).eraseDead := rfl

theorem State.giveBack_congr_eraseDead {s t : State} (r : Return) (h : s.eraseDead = t.eraseDead) :
    (s.giveBack r).eraseDead = (t.giveBack r).eraseDead :=
  congrArg (State.giveBack r) h

theorem State.enter_congr_eraseDead {s t : State} (a : Activity) (h : s.eraseDead = t.eraseDead) :
    (s.enter a).eraseDead = (t.enter a).eraseDead :=
  congrArg (State.enter a) h

/-- No operation writes the pin `ECHO`. -/
theorem State.pinWrite_eraseDead {p : Pin} (hp : p ≠ .echo) (v : Level) : s.eraseDead.pinWrite p v = (s.pinWrite p v).eraseDead := by
  cases p with
  | echo => exact absurd rfl hp
  | _ => rfl

theorem State.pinDir_eraseDead {p : Pin} (hp : p ≠ .echo) (d : Dir) : s.eraseDead.pinDir p d = (s.pinDir p d).eraseDead := by
  cases p with
  | echo => exact absurd rfl hp
  | _ => rfl

/-! ## A turn of REFRESH -/

theorem State.rfGo_eraseDead {p q : RfPc} (hp : s.disp.pc = p) (h : p.keeps q = true) :
    (s.eraseDead.rfGo q).eraseDead = (s.rfGo q).eraseDead :=
  s.eraseDead_setDisp (s.disp.eraseDead_go s.disp.wake (hp ▸ h))

theorem rfWriteGo_eraseDead {l : Pin} {p q : RfPc} (v : Level) (hl : l ≠ .echo) (hp : s.disp.pc = p) (h : p.keeps q = true) :
    ((s.eraseDead.pinWrite l v).rfGo q).eraseDead = ((s.pinWrite l v).rfGo q).eraseDead := by
  rw [s.pinWrite_eraseDead hl]
  exact (s.pinWrite l v).rfGo_eraseDead hp h

theorem State.rfWake_eraseDead (w : Option Nat) :
    ({ s.eraseDead with disp := { s.disp.eraseDead with wake := w } } : State).eraseDead =
      ({ s with disp := { s.disp with wake := w } } : State).eraseDead :=
  s.eraseDead_setDisp (s.disp.eraseDead_go w s.disp.pc.keeps_self)

theorem State.rfDelay_eraseDead (n : Nat) {p q : RfPc} (hp : s.disp.pc = p) (h : p.keeps q = true) :
    (s.eraseDead.rfDelay n q).eraseDead = (s.rfDelay n q).eraseDead := by
  simp only [State.rfDelay, eraseDead_tau, eraseDead_disp, Disp.eraseDead_wake]
  split
  · exact s.rfWake_eraseDead _
  · exact s.eraseDead_idem
  · exact s.eraseDead_setDisp (s.disp.eraseDead_go none (hp ▸ h))

theorem rfCheck_eraseDead (hp : s.disp.pc = .check) : (rfCheck s.eraseDead).eraseDead = (rfCheck s).eraseDead := by
  unfold rfCheck
  rw [State.eraseDead_disp, Disp.eraseDead_stopReq]
  split_ifs
  · exact s.rfGo_eraseDead hp rfl
  · exact s.eraseDead_setDisp rfl

theorem rfLoad_eraseDead (hp : s.disp.pc = .load) :
    mapNext State.eraseDead (rfLoad s.eraseDead) = mapNext State.eraseDead (rfLoad s) := by
  have hhalf : s.disp.eraseDead.half = s.disp.half := Disp.eraseDead_half (hp ▸ rfl)
  simp only [rfLoad_eq, mapNext_next, State.eraseDead_disp, hhalf]
  exact congrArg _ (s.eraseDead_setDisp (by simp [Disp.eraseDead, hp, RfPc.readsHalf, RfPc.phase]))

theorem rfBitEnd_eraseDead (hp : s.disp.pc = .bitLowWait) : (rfBitEnd s.eraseDead).eraseDead = (rfBitEnd s).eraseDead := by
  have hbit : s.disp.eraseDead.bit = s.disp.bit := Disp.eraseDead_bit (hp ▸ rfl)
  unfold rfBitEnd
  rw [State.eraseDead_disp, State.eraseDead_tau, Disp.eraseDead_wake]
  split
  · exact s.rfWake_eraseDead _
  · exact s.eraseDead_idem
  · rw [hbit]
    split_ifs
    · exact s.eraseDead_setDisp (s.disp.eraseDead_go none (hp ▸ rfl))
    · exact s.eraseDead_setDisp (by simp [Disp.eraseDead, hp, RfPc.readsHalf, RfPc.phase])

theorem rfDraw_eraseDead (hp : s.disp.pc = .selectDraw) : (rfDraw s.eraseDead).eraseDead = (rfDraw s).eraseDead :=
  s.eraseDead_setDisp (by simp [Disp.eraseDead, hp, RfPc.readsHalf, RfPc.phase])

theorem rfHoldEnd_eraseDead (hp : s.disp.pc = .holdEnd) : (rfHoldEnd s.eraseDead).eraseDead = (rfHoldEnd s).eraseDead := by
  have hhalf : s.disp.eraseDead.half = s.disp.half := Disp.eraseDead_half (hp ▸ rfl)
  unfold rfHoldEnd
  simp only [State.eraseDead_disp, hhalf]
  split
  · exact s.eraseDead_setDisp rfl
  · exact s.rfGo_eraseDead hp rfl

theorem rfExitDone_eraseDead : (rfExitDone s.eraseDead).eraseDead = (rfExitDone s).eraseDead :=
  s.eraseDead_setDisp rfl

theorem rfStep_readsNoDead : ReadsNoDead rfStep := by
  intro s
  simp only [rfStep, State.eraseDead_disp, Disp.eraseDead_pc]
  cases hp : s.disp.pc <;> simp only [mapNext_next, Host.Outcome.next.injEq]
  case idle => exact s.eraseDead_idem
  case check => exact rfCheck_eraseDead s hp
  case deselUnits | deselTens | lowerClk | lowerLatch | bitClkHigh | bitClkLow | latchRaise | exitUnits | exitTens | exitClk
      | exitLatch =>
    exact rfWriteGo_eraseDead s _ (by decide) hp rfl
  case lowerWait | bitDataWait | bitHighWait | latchWait => exact s.rfDelay_eraseDead _ hp rfl
  case load => exact rfLoad_eraseDead s hp
  case bitData =>
    rw [Disp.eraseDead_pat (hp ▸ rfl), Disp.eraseDead_bit (hp ▸ rfl)]
    exact rfWriteGo_eraseDead s _ (by decide) hp rfl
  case bitLowWait => exact rfBitEnd_eraseDead s hp
  case selectOn =>
    rw [Disp.eraseDead_half (hp ▸ rfl)]
    exact rfWriteGo_eraseDead s _ (by cases s.disp.half <;> decide) hp rfl
  case selectDraw => exact rfDraw_eraseDead s hp
  case holdWait =>
    rw [Disp.eraseDead_holdUs hp]
    exact s.rfDelay_eraseDead _ hp rfl
  case holdEnd => exact rfHoldEnd_eraseDead s hp
  case exitDone => exact rfExitDone_eraseDead s

theorem refreshTurn_readsNoDead : ReadsNoDead refreshTurn := by
  intro s
  unfold refreshTurn
  rw [State.eraseDead_disp, Disp.eraseDead_running]
  split_ifs
  · exact rfStep_readsNoDead s
  · exact congrArg Host.Outcome.next s.eraseDead_idem

/-! ## A turn inside of `SW_MEASURE` -/

theorem State.swGo_eraseDead {q : SwPc}
    (h : ({ s.sw.eraseDead with pc := q } : Sw).eraseDead = ({ s.sw with pc := q } : Sw).eraseDead) :
    (s.eraseDead.swGo q).eraseDead = (s.swGo q).eraseDead :=
  s.eraseDead_setSw h

theorem swStartDelay_eraseDead (hp : s.sw.pc = .startDelay) : (swStartDelay s.eraseDead).eraseDead = (swStartDelay s).eraseDead := by
  simp only [swStartDelay, State.eraseDead_tau, State.eraseDead_sw, Sw.eraseDead_wake]
  split
  · exact s.eraseDead_setSw (by simp [Sw.eraseDead, hp])
  · exact s.eraseDead_idem
  · exact s.eraseDead_setSw (by simp [Sw.eraseDead, hp])

/-- Inside of one wait only the local registers of the poll change their part. -/
theorem Sw.eraseDead_goesOn {x : Sw} {st : SwWait} {sub sub' : WaitSub} {w w' : WaitLocals} (hp : x.pc = .wait st sub)
    (h : eraseDeadWait w sub' = eraseDeadWait w' sub') :
    ({ x.eraseDead with wait := w, pc := .wait st sub' } : Sw).eraseDead =
      ({ x with wait := w', pc := .wait st sub' } : Sw).eraseDead := by
  cases st <;> simp [Sw.eraseDead, hp, h]

/-- A wait that ends leads on by the registers of the measurement; those of the poll are dead from there. -/
theorem swDone_eraseDead {st : SwWait} {sub : WaitSub} (d : Nat) (w w' : WaitLocals) (hp : s.sw.pc = .wait st sub) :
    (swDone st d { s.eraseDead with sw := { s.sw.eraseDead with wait := w } }).eraseDead =
      (swDone st d { s with sw := { s.sw with wait := w' } }).eraseDead := by
  cases st with
  | bitSecond =>
    refine s.eraseDead_setSw ?_
    by_cases hk : s.sw.k + 1 = swFrameBits <;> simp [Sw.eraseDead, hp, hk, eraseDeadWait]
  | _ => exact s.eraseDead_setSw (by simp [Sw.eraseDead, hp, eraseDeadWait])

theorem swAbort_eraseDead {st : SwWait} {sub : WaitSub} (w w' : WaitLocals) (hp : s.sw.pc = .wait st sub) :
    (swAbort { s.eraseDead with sw := { s.sw.eraseDead with wait := w } }).eraseDead =
      (swAbort { s with sw := { s.sw with wait := w' } }).eraseDead :=
  State.giveBack_congr_eraseDead _ (s.eraseDead_setSw (by cases st <;> simp [Sw.eraseDead, hp]))

theorem Sw.eraseDead_wait {x : Sw} {st : SwWait} {sub : WaitSub} (hp : x.pc = .wait st sub) :
    x.eraseDead.wait = eraseDeadWait x.wait sub := by
  cases st <;> simp [Sw.eraseDead, hp]

theorem swWaitTurn_eraseDead {st : SwWait} {sub : WaitSub} (hp : s.sw.pc = .wait st sub) :
    (swWaitTurn st sub s.eraseDead).eraseDead = (swWaitTurn st sub s).eraseDead := by
  have hw : s.eraseDead.sw.wait = eraseDeadWait s.sw.wait sub := Sw.eraseDead_wait hp
  unfold swWaitTurn
  rw [State.eraseDead_cfg, State.eraseDead_pinRead, State.eraseDead_nowUs]
  cases sub with
  | a => exact s.eraseDead_setSw (Sw.eraseDead_goesOn hp rfl)
  | b => exact s.eraseDead_setSw (Sw.eraseDead_goesOn hp (by rw [hw]; rfl))
  | c =>
    have hl : s.eraseDead.sw.wait.l = s.sw.wait.l := by rw [hw]; rfl
    have ht0 : s.eraseDead.sw.wait.t0 = s.sw.wait.t0 := by rw [hw]; rfl
    unfold waitTurn
    dsimp only
    rw [hl, ht0]
    split_ifs
    · exact swDone_eraseDead s _ _ _ hp
    · exact swAbort_eraseDead s _ _ hp
    · exact s.eraseDead_setSw (Sw.eraseDead_goesOn hp rfl)

theorem swCheck_eraseDead (hp : s.sw.pc = .check) : (swCheck s.eraseDead).eraseDead = (swCheck s).eraseDead := by
  have hframe : s.sw.eraseDead.frame = s.sw.frame := by simp [Sw.eraseDead, hp]
  simp only [swCheck, State.eraseDead_sw, hframe]
  exact State.giveBack_congr_eraseDead _ (s.swGo_eraseDead (by simp [Sw.eraseDead, hp]))

theorem swTurn_eraseDead : (swTurn s.eraseDead).eraseDead = (swTurn s).eraseDead := by
  simp only [swTurn, State.eraseDead_sw, Sw.eraseDead_pc]
  cases hp : s.sw.pc with
  | idle => exact s.eraseDead_idem
  | startDelay => exact swStartDelay_eraseDead s hp
  | wait st sub => exact swWaitTurn_eraseDead s hp
  | check => exact swCheck_eraseDead s hp
  | startLow | relHigh | restoreHigh =>
    dsimp only
    rw [s.pinWrite_eraseDead (by decide)]
    refine State.swGo_eraseDead _ ?_
    simp [Sw.eraseDead, hp]
  | relIn | restoreDir =>
    dsimp only
    rw [s.pinDir_eraseDead (by decide)]
    refine State.swGo_eraseDead _ ?_
    simp [Sw.eraseDead, hp, eraseDeadWait]

/-! ## A turn inside of `ECHO_MEASURE` -/

theorem ecTrigDelay_eraseDead (hp : s.echo.pc = .trigDelay) : (ecTrigDelay s.eraseDead).eraseDead = (ecTrigDelay s).eraseDead := by
  simp only [ecTrigDelay, State.eraseDead_tau, State.eraseDead_echo, Echo.eraseDead_wake]
  split
  · exact s.eraseDead_setEcho (by simp [Echo.eraseDead, hp])
  · exact s.eraseDead_idem
  · exact s.eraseDead_setEcho (by simp [Echo.eraseDead, hp])

theorem Echo.eraseDead_goesOn {x : Echo} {st : EcWait} {sub sub' : WaitSub} {w w' : WaitLocals} (hp : x.pc = .wait st sub)
    (h : eraseDeadWait w sub' = eraseDeadWait w' sub') :
    ({ x.eraseDead with wait := w, pc := .wait st sub' } : Echo).eraseDead =
      ({ x with wait := w', pc := .wait st sub' } : Echo).eraseDead := by
  simp [Echo.eraseDead, hp, h]

theorem ecDone_eraseDead {st : EcWait} {sub : WaitSub} (d : Nat) (w w' : WaitLocals) (hp : s.echo.pc = .wait st sub) :
    (ecDone st d { s.eraseDead with echo := { s.echo.eraseDead with wait := w } }).eraseDead =
      (ecDone st d { s with echo := { s.echo with wait := w' } }).eraseDead := by
  cases st <;> exact s.eraseDead_setEcho (by simp [Echo.eraseDead, hp, eraseDeadWait])

theorem ecAbort_eraseDead {st : EcWait} {sub : WaitSub} (w w' : WaitLocals) (hp : s.echo.pc = .wait st sub) :
    (ecAbort { s.eraseDead with echo := { s.echo.eraseDead with wait := w } }).eraseDead =
      (ecAbort { s with echo := { s.echo with wait := w' } }).eraseDead :=
  State.giveBack_congr_eraseDead _ (s.eraseDead_setEcho (by simp [Echo.eraseDead, hp]))

theorem Echo.eraseDead_wait {x : Echo} {st : EcWait} {sub : WaitSub} (hp : x.pc = .wait st sub) :
    x.eraseDead.wait = eraseDeadWait x.wait sub := by
  simp [Echo.eraseDead, hp]

theorem ecWaitTurn_eraseDead {st : EcWait} {sub : WaitSub} (hp : s.echo.pc = .wait st sub) :
    (ecWaitTurn st sub s.eraseDead).eraseDead = (ecWaitTurn st sub s).eraseDead := by
  have hw : s.eraseDead.echo.wait = eraseDeadWait s.echo.wait sub := Echo.eraseDead_wait hp
  unfold ecWaitTurn
  rw [State.eraseDead_pinRead, State.eraseDead_nowUs]
  cases sub with
  | a => exact s.eraseDead_setEcho (Echo.eraseDead_goesOn hp rfl)
  | b => exact s.eraseDead_setEcho (Echo.eraseDead_goesOn hp (by rw [hw]; rfl))
  | c =>
    have hl : s.eraseDead.echo.wait.l = s.echo.wait.l := by rw [hw]; rfl
    have ht0 : s.eraseDead.echo.wait.t0 = s.echo.wait.t0 := by rw [hw]; rfl
    unfold waitTurn
    dsimp only
    rw [hl, ht0]
    split_ifs
    · exact ecDone_eraseDead s _ _ _ hp
    · exact ecAbort_eraseDead s _ _ hp
    · exact s.eraseDead_setEcho (Echo.eraseDead_goesOn hp rfl)

theorem ecConvert_eraseDead (hp : s.echo.pc = .convert) : (ecConvert s.eraseDead).eraseDead = (ecConvert s).eraseDead := by
  have ht : s.echo.eraseDead.t = s.echo.t := by simp [Echo.eraseDead, hp]
  simp only [ecConvert, State.eraseDead_echo, State.eraseDead_cfg, ht]
  exact State.giveBack_congr_eraseDead _ (s.eraseDead_setEcho (by simp [Echo.eraseDead, hp]))

theorem ecTurn_eraseDead : (ecTurn s.eraseDead).eraseDead = (ecTurn s).eraseDead := by
  simp only [ecTurn, State.eraseDead_echo, Echo.eraseDead_pc]
  cases hp : s.echo.pc with
  | idle => exact s.eraseDead_idem
  | trigDelay => exact ecTrigDelay_eraseDead s hp
  | wait st sub => exact ecWaitTurn_eraseDead s hp
  | convert => exact ecConvert_eraseDead s hp
  | trigLow =>
    dsimp only
    rw [s.pinWrite_eraseDead (by decide)]
    refine State.eraseDead_setEcho _ ?_
    simp [Echo.eraseDead, hp, eraseDeadWait]

/-! ## The operations (30_encoding.md R90) -/

theorem execDispSetDigits_ignoresDead (t u : Byte) : IgnoresDead (execDispSetDigits t u) := by
  intro s
  unfold execDispSetDigits
  rw [State.eraseDead_disp, Disp.eraseDead_attached, memWrite_one _ _ Nat.zero_lt_two, continueWith_ok]
  split_ifs <;> rfl

theorem setDigitsSecond_ignoresDead (u : Byte) : IgnoresDead (setDigitsSecond u) := by
  intro s
  simp only [setDigitsSecond, memWrite_one _ _ Nat.one_lt_two, continueWith_ok]
  rfl

/-- The task starts in a phase that reads no register that is not written first. -/
theorem execDispStart_readsNoDead : ReadsNoDead execDispStart := by
  intro s
  unfold execDispStart
  rw [State.eraseDead_disp, Disp.eraseDead_attached, Disp.eraseDead_running, State.eraseDead_stopInProgress]
  split_ifs
  · rfl
  · rfl
  · exact congrArg Host.Outcome.next (State.giveBack_congr_eraseDead _ (s.eraseDead_setDisp rfl))
  · rfl

theorem execDispStop_ignoresDead : IgnoresDead execDispStop := by
  intro s
  unfold execDispStop
  rw [State.eraseDead_disp, Disp.eraseDead_attached, Disp.eraseDead_running, State.eraseDead_stopInProgress]
  split_ifs <;> rfl

theorem execSwMeasure_readsNoDead : ReadsNoDead execSwMeasure := by
  intro s
  unfold execSwMeasure
  rw [State.eraseDead_sw, Sw.eraseDead_attached, Sw.eraseDead_pc, s.pinDir_eraseDead (p := .sw) (by decide)]
  split_ifs with ha hp
  · refine congrArg Host.Outcome.next (State.enter_congr_eraseDead _ (State.swGo_eraseDead _ ?_))
    simp [Sw.eraseDead, hp]
  · rfl
  · rfl

theorem execEchoMeasure_readsNoDead : ReadsNoDead execEchoMeasure := by
  intro s
  unfold execEchoMeasure
  rw [State.eraseDead_echo, Echo.eraseDead_attached, Echo.eraseDead_pc, s.pinWrite_eraseDead (p := .trig) (by decide)]
  split_ifs with ha hp
  · refine congrArg Host.Outcome.next (State.enter_congr_eraseDead _ (State.eraseDead_setEcho _ ?_))
    simp [Echo.eraseDead, hp]
  · rfl
  · rfl

theorem commitDuty_eraseDead (n : Nat) : commitDuty n s.eraseDead = (commitDuty n s).eraseDead := by
  unfold commitDuty
  rw [State.eraseDead_choice]
  split_ifs <;> rfl

theorem execPwmSetDuty_ignoresDead (p : Int) : IgnoresDead (execPwmSetDuty p) := by
  intro s
  unfold execPwmSetDuty
  rw [State.eraseDead_pwm, commitDuty_eraseDead]
  split_ifs <;> rfl

theorem exec_readsNoDead (i : Instr) : ReadsNoDead (exec i) := by
  cases i with
  | dispSetDigits t u => exact (execDispSetDigits_ignoresDead t u).readsNoDead
  | dispStart => exact execDispStart_readsNoDead
  | dispStop => exact execDispStop_ignoresDead.readsNoDead
  | swMeasure => exact execSwMeasure_readsNoDead
  | echoMeasure => exact execEchoMeasure_readsNoDead
  | pwmSetDuty p => exact (execPwmSetDuty_ignoresDead p).readsNoDead

/-! ## Attach and detach (70_reset_and_hazards.md R250 to R256) -/

/-- The pins and the memory that attach sets are no registers, and the idle phase reads no register that is not written first. -/
theorem attachDisp_eraseDead : (attachDisp s.eraseDead).eraseDead = (attachDisp s).eraseDead :=
  State.eraseDead_setDisp { attachDisp s with disp := s.disp } rfl

theorem attachSw_eraseDead : (attachSw s.eraseDead).eraseDead = (attachSw s).eraseDead :=
  State.eraseDead_setSw { attachSw s with sw := s.sw } rfl

theorem attachEcho_eraseDead : (attachEcho s.eraseDead).eraseDead = (attachEcho s).eraseDead :=
  State.eraseDead_setEcho { attachEcho s with echo := s.echo } rfl

theorem Sw.eraseDead_toIdle (x : Sw) :
    ({ x.eraseDead with pc := .idle } : Sw).eraseDead = ({ x with pc := .idle } : Sw).eraseDead := by
  obtain ⟨_, _, _, _, _, _, pc, _⟩ := x
  cases pc with
  | wait st sub => cases st <;> rfl
  | _ => rfl

theorem Echo.eraseDead_toIdle (x : Echo) :
    ({ x.eraseDead with pc := .idle } : Echo).eraseDead = ({ x with pc := .idle } : Echo).eraseDead := by
  obtain ⟨_, _, _, _, pc, _⟩ := x
  cases pc <;> rfl

theorem State.raise_eraseDead (e : Engine) (r : Return) : (s.eraseDead.raise e r).eraseDead = (s.raise e r).eraseDead := by
  refine State.giveBack_congr_eraseDead r ?_
  cases e with
  | disp | pwm => exact s.eraseDead_idem
  | sw => exact s.swGo_eraseDead s.sw.eraseDead_toIdle
  | echo => exact s.eraseDead_setEcho s.echo.eraseDead_toIdle

theorem attachPwm_eraseDead : attachPwm s.eraseDead = (attachPwm s).eraseDead := by
  unfold attachPwm
  rw [State.eraseDead_choice]
  split_ifs <;> rfl

theorem attach_readsNoDead (e : Engine) : ReadsNoDead (attach e) := by
  intro s
  unfold attach
  rw [State.eraseDead_attached, State.eraseDead_choice]
  split_ifs
  · rfl
  · refine congrArg Host.Outcome.next ?_
    cases e with
    | disp => exact State.giveBack_congr_eraseDead _ (attachDisp_eraseDead s)
    | sw => exact State.giveBack_congr_eraseDead _ (attachSw_eraseDead s)
    | echo => exact State.giveBack_congr_eraseDead _ (attachEcho_eraseDead s)
    | pwm => rw [attachPwm_eraseDead, State.eraseDead_idem]
  · exact congrArg Host.Outcome.next (s.raise_eraseDead e _)

theorem Sw.eraseDead_detach (x : Sw) :
    { x.eraseDead with attached := false } = ({ x with attached := false } : Sw).eraseDead := by
  obtain ⟨_, _, _, _, _, _, pc, _⟩ := x
  cases pc with
  | wait st sub => cases st <;> rfl
  | _ => rfl

theorem Echo.eraseDead_detach (x : Echo) :
    { x.eraseDead with attached := false } = ({ x with attached := false } : Echo).eraseDead := by
  obtain ⟨_, _, _, _, pc, _⟩ := x
  cases pc <;> rfl

theorem State.dropInstance_eraseDead (e : Engine) : s.eraseDead.dropInstance e = (s.dropInstance e).eraseDead := by
  cases e with
  | disp | pwm => rfl
  | sw => exact congrArg (fun x => { s.eraseDead with sw := x }) s.sw.eraseDead_detach
  | echo => exact congrArg (fun x => { s.eraseDead with echo := x }) s.echo.eraseDead_detach

theorem detach_ignoresDead (e : Engine) : IgnoresDead (detach e) := by
  intro s
  unfold detach
  rw [State.eraseDead_attached, State.eraseDead_busy, State.dropInstance_eraseDead]
  split_ifs <;> rfl

/-! ## The turns of HOST and of ENV (60_exceptions.md R232, R240) -/

theorem present_readsNoDead (w : CmdWord) : ReadsNoDead (present w) := by
  intro s
  unfold present
  cases decode w with
  | ok i => exact exec_readsNoDead i s
  | error e => rfl

theorem answerAtOnce_ignoresDead (e : Engine) (r : Return) : IgnoresDead (answerAtOnce e r) := by
  intro s
  unfold answerAtOnce
  rw [State.eraseDead_attached]
  split_ifs <;> rfl

/-- An operation called with an answer form of its own. -/
theorem exec_setReply_readsNoDead (i : Instr) (r : Reply) : ReadsNoDead fun s => exec i (s.setReply r) :=
  (exec_readsNoDead i).after (·.setReply_eraseDead r)

theorem issue_readsNoDead (c : Call) : ReadsNoDead (issue c) := by
  intro s
  cases c with
  | word w => exact present_readsNoDead w s
  | attach e => exact attach_readsNoDead e s
  | detach e => exact (detach_ignoresDead e).readsNoDead s
  | dispWrite bs => exact exec_setReply_readsNoDead _ _ s
  | dispRead off => exact (answerAtOnce_ignoresDead _ _).readsNoDead s
  | swRead off =>
    simp only [issue, issueSwRead]
    split_ifs
    · exact exec_setReply_readsNoDead _ _ s
    · exact (answerAtOnce_ignoresDead _ _).readsNoDead s
  | swWrite bs => rfl
  | echoRead off =>
    simp only [issue, issueEchoRead]
    split_ifs
    · exact exec_setReply_readsNoDead _ _ s
    · exact (answerAtOnce_ignoresDead _ _).readsNoDead s
  | echoWrite bs => rfl
  | pwmWrite bs =>
    simp only [issue, issuePwmWrite, State.eraseDead_cfg]
    cases parsePercent s.cfg.acceptLf bs with
    | some p => exact exec_setReply_readsNoDead _ _ s
    | none => exact (answerAtOnce_ignoresDead _ _).readsNoDead s
  | pwmRead off => exact (answerAtOnce_ignoresDead _ _).readsNoDead s

theorem stopHoldTurn_eraseDead : stopHoldTurn s.eraseDead = (stopHoldTurn s).eraseDead := by
  unfold stopHoldTurn
  rw [State.eraseDead_disp, Disp.eraseDead_running]
  split_ifs <;> rfl

theorem hostTurn_readsNoDead (k : Nat) : ReadsNoDead (hostTurn k) := by
  intro s
  simp only [hostTurn, State.eraseDead_threads]
  cases s.threads[k]? with
  | none => exact congrArg Host.Outcome.next s.eraseDead_idem
  | some th =>
    dsimp only
    cases th.act with
    | idle =>
      cases th.calls with
      | nil => exact congrArg Host.Outcome.next s.eraseDead_idem
      | cons c cs => exact (issue_readsNoDead c).after (·.popCall_eraseDead k) s
    | setDigits u => exact (setDigitsSecond_ignoresDead u).readsNoDead s
    | stopHold => simp [stopHoldTurn_eraseDead]
    | swMeasure => exact congrArg Host.Outcome.next (swTurn_eraseDead s)
    | echoMeasure => exact congrArg Host.Outcome.next (ecTurn_eraseDead s)

theorem envTurn_eraseDead (a : EnvAct) : envTurn a s.eraseDead = (envTurn a s).eraseDead := by
  cases a with
  | advance ns => rfl
  | setLine p v =>
    simp only [envTurn]
    rw [State.eraseDead_pinDirOf]
    split_ifs
    · cases p <;> rfl
    · rfl

theorem callArrives_eraseDead (k : Nat) (c : Call) : callArrives k c s.eraseDead = (callArrives k c s).eraseDead := by
  unfold callArrives
  rw [State.eraseDead_threads]
  split_ifs <;> rfl

theorem agentTurn_readsNoDead (a : Agent) : ReadsNoDead (agentTurn a) := by
  intro s
  cases a with
  | host k => exact hostTurn_readsNoDead k s
  | refresh => exact refreshTurn_readsNoDead s
  | env e => simp [agentTurn, envTurn_eraseDead]
  | call k c => simp [agentTurn, callArrives_eraseDead]

theorem mapNext_eraseDead_spend (o : Host.Outcome State Fault Refusal) :
    mapNext State.eraseDead (mapNext State.spend o) = mapNext State.spend (mapNext State.eraseDead o) := by
  cases o <;> rfl

/-- Settles O59: each agent's turn reads no dead register, and the choice that is spent around it is none. -/
theorem deadRegistersNotRead : Obligations.DeadRegistersNotRead := by
  intro s
  unfold step
  rw [mapNext_eraseDead_spend, mapNext_eraseDead_spend, State.eraseDead_choice, agentTurn_readsNoDead]

end Sys2Proof.Machine
end

section
/-! Accesses to the DisplayState memory (20_memory.md R61, R71). -/

namespace Sys2Proof.Machine

variable {a n : Nat} (s : State)

theorem memWrite_refused (v : Nat) (h : ¬ (a < 2 ∧ n = 1)) : memWrite a n v s = .error .memoryAccess := if_neg h

theorem memRead_refused (h : ¬ (a < 2 ∧ n = 1)) : memRead a n s = .error .memoryAccess := if_neg h

/-- Settles O6: an access inside of the two bytes reads what was written, any other is refused. -/
theorem memoryAccess : Obligations.MemoryAccess := by
  intro s a n v hwf
  refine ⟨?_, fun h => ⟨memWrite_refused s v h, memRead_refused s h⟩⟩
  rintro ⟨ha, rfl⟩
  have hread := fun b => Memory.read_write s.mem a b (BitVec.ofNat 8 v) (Memory.rising_of_wf hwf)
  refine ⟨_, memWrite_one v s ha, ?_, fun b hb => ?_, Memory.wf_write _ _ _ ha hwf, rfl⟩
  · rw [memRead_one _ ha, hread, if_pos rfl]
  · rw [hread, if_neg hb.symm]

end Sys2Proof.Machine
end

section
/-! What a write to a pin that drives its line makes of the state (20_memory.md R67; 60_exceptions.md R233). -/

namespace Sys2Proof.Machine

variable {s : State}

theorem PinHandle.drives_driving (v : Level) : (PinHandle.driving v).drives := ⟨rfl, rfl⟩

theorem PinHandle.write_of_drives {h : PinHandle} (hd : h.drives) (v : Level) : h.write v = .driving v := by
  simp [PinHandle.write, PinHandle.driving, hd.1]

theorem State.pinWrite_of_drives {p : Pin} (hd : (s.pins.get p).drives) (v : Level) :
    s.pinWrite p v = s.setPins (s.pins.set p (.driving v)) := by
  rw [State.pinWrite, PinHandle.write_of_drives hd]

/-- A pin other than the clock and the latch. -/
theorem State.pinWrite_other {p : Pin} (hc : p ≠ .clk) (hl : p ≠ .latch) (hd : (s.pins.get p).drives) (v : Level) :
    s.pinWrite p v = { s with pins := s.pins.set p (.driving v) } := by
  rw [State.pinWrite_of_drives hd, State.setPins, Ext.react_set_other _ _ _ _ hc hl]

/-- A falling clock moves nothing in the external register. -/
theorem State.pinWrite_clk_low (hd : s.pins.clk.drives) :
    s.pinWrite .clk false = { s with pins := { s.pins with clk := .driving false } } := by
  rw [State.pinWrite_of_drives (p := .clk) hd]
  simp [State.setPins, Pins.set, Ext.react, PinHandle.rises, PinHandle.driving]

/-- A rising clock shifts the data line in. -/
theorem State.pinWrite_clk_high (hd : s.pins.clk.drives) (hlow : s.pins.clk.line = false) :
    s.pinWrite .clk true = { s with
      pins := { s.pins with clk := .driving true }
      ext := { s.ext with sr := (s.ext.sr <<< 1) ||| (if s.pins.data.line then 1 else 0), pulses := s.ext.pulses + 1 } } := by
  rw [State.pinWrite_of_drives (p := .clk) hd]
  cases hb : s.pins.data.line <;>
    simp [State.setPins, Pins.set, Ext.react, PinHandle.rises, PinHandle.driving, hlow, hb]

/-- With the latch low the count of pulses starts again; it stands at 0 already if the latch was low between two bytes. -/
theorem State.pinWrite_latch_low (hd : s.pins.latch.drives) (hp : s.pins.latch.line = false → s.ext.pulses = 0) :
    s.pinWrite .latch false =
      { s with pins := { s.pins with latch := .driving false }, ext := { s.ext with pulses := 0 } } := by
  rw [State.pinWrite_of_drives (p := .latch) hd]
  cases hl : s.pins.latch.line <;>
    simp_all [State.setPins, Pins.set, Ext.react, PinHandle.rises, PinHandle.driving]

/-- A rising latch copies the register to the outputs. -/
theorem State.pinWrite_latch_high (hd : s.pins.latch.drives) (hlow : s.pins.latch.line = false) :
    s.pinWrite .latch true =
      { s with pins := { s.pins with latch := .driving true }, ext := { s.ext with q := s.ext.sr } } := by
  rw [State.pinWrite_of_drives (p := .latch) hd]
  simp [State.setPins, Pins.set, Ext.react, PinHandle.rises, PinHandle.driving, hlow]

end Sys2Proof.Machine
end

section
/-! Every step of the refresh loop keeps the invariant of the display (40_display.md R116 to R131). -/

namespace Sys2Proof.Machine

variable {s t u : State}

/-! ## The lines of the display -/

/-- The five display pins drive their lines. -/
def Pins.DisplayDriven (ps : Pins) : Prop :=
  ps.data.drives ∧ ps.clk.drives ∧ ps.latch.drives ∧ ps.selUnits.drives ∧ ps.selTens.drives

theorem Pins.DisplayDriven.set {ps : Pins} (h : ps.DisplayDriven) (p : Pin) (v : Level) :
    (ps.set p (.driving v)).DisplayDriven := by
  obtain ⟨hdata, hclk, hlatch, hunits, htens⟩ := h
  have hd := PinHandle.drives_driving v
  cases p
  case data => exact ⟨hd, hclk, hlatch, hunits, htens⟩
  case clk => exact ⟨hdata, hd, hlatch, hunits, htens⟩
  case latch => exact ⟨hdata, hclk, hd, hunits, htens⟩
  case selUnits => exact ⟨hdata, hclk, hlatch, hd, htens⟩
  case selTens => exact ⟨hdata, hclk, hlatch, hunits, hd⟩
  case sw | trig | echo => exact ⟨hdata, hclk, hlatch, hunits, htens⟩

theorem selOff_ne_selOn (c : Config) : selOff c ≠ selOn c := by
  simp [selOff, selOn]

/-- At most one digit is on, and while one is on its byte is in the outputs (40_display.md R130 (a), (d), R131). -/
def State.LitInv (s : State) : Prop :=
  ¬ (s.pins.selUnits.line = selOn s.cfg ∧ s.pins.selTens.line = selOn s.cfg) ∧
    (s.pins.selUnits.line = selOn s.cfg ∨ s.pins.selTens.line = selOn s.cfg → s.latched)

theorem State.DispInv.litInv (hs : s.DispInv) : s.LitInv := ⟨hs.notBoth, hs.lit⟩

/-- With the units off, only the tens can be on. -/
theorem State.LitInv.of_unitsOff (hoff : s.pins.selUnits.line = selOff s.cfg)
    (hlit : s.pins.selTens.line = selOn s.cfg → s.latched) : s.LitInv := by
  have hne : s.pins.selUnits.line ≠ selOn s.cfg := hoff ▸ selOff_ne_selOn s.cfg
  exact ⟨fun h => hne h.1, fun h => hlit (h.resolve_left hne)⟩

theorem State.LitInv.of_dark (h : s.dark) : s.LitInv :=
  .of_unitsOff h.1 fun hon => absurd (h.2.symm.trans hon) (selOff_ne_selOn s.cfg)

theorem State.LitInv.of_showsHalf (hshows : s.showsHalf) (hl : s.latched) : s.LitInv := by
  refine ⟨fun ⟨hu, ht⟩ => ?_, fun _ => hl⟩
  unfold State.showsHalf at hshows
  split at hshows
  · exact selOff_ne_selOn _ (hshows.2.symm.trans ht)
  · exact selOff_ne_selOn _ (hshows.2.symm.trans hu)

/-! ## The bits of a byte (30_encoding.md R83, R84) -/

/-- A bit clocked in joins the bits of the pattern above it. -/
theorem shifted_push {sr pat : Byte} {n : Nat} {b : Fin shiftBits} (hn : n = 7 - b.val)
    (h : ∀ i, i < n → sr.getLsbD i = pat.getLsbD (8 - n + i)) :
    ∀ i, i < 8 - b.val →
      ((sr <<< 1) ||| (if pat.getLsbD b.val then 1 else 0)).getLsbD i = pat.getLsbD (8 - (8 - b.val) + i) := by
  have hb : b.val < 8 := b.isLt
  have hbit : ∀ i, (if pat.getLsbD b.val then 1 else 0 : Byte).getLsbD i = (decide (i = 0) && pat.getLsbD b.val) := by
    intro i
    cases pat.getLsbD b.val <;> simp [BitVec.getLsbD_one]
  intro i hi
  rw [BitVec.getLsbD_or, BitVec.getLsbD_shiftLeft, hbit]
  cases i with
  | zero => simp [show 8 - (8 - b.val) = b.val by omega]
  | succ i =>
    have h8 : i + 1 < 8 := by omega
    have hidx : 8 - n + i = 8 - (8 - b.val) + (i + 1) := by omega
    simpa [h8, hidx] using h i (by omega)

/-- Eight bits clocked in are the whole pattern. -/
theorem shifted_eight (h : s.shifted 8) : s.ext.sr = s.disp.pat :=
  BitVec.eq_of_getLsbD_eq fun i hi => by simpa using h i hi

/-! ## The steps of the loop -/

theorem State.DispInv.wake_none (hs : s.DispInv) (h : s.disp.pc.isDelay = false) : s.disp.wake = none := by
  by_contra hw
  rw [hs.delay hw] at h
  cases h

/-- A step inside of the loop keeps the invariant if it keeps what is said of the lines. -/
theorem State.DispInv.next (hs : s.DispInv) (hrun : s.disp.running = true) (hr : t.disp.running = s.disp.running)
    (ha : t.disp.attached = s.disp.attached) (hq : t.disp.pc ≠ .idle) (hw : t.disp.wake ≠ none → t.disp.pc.isDelay = true)
    (hd : t.pins.DisplayDriven) (hl : t.LitInv) (hat : t.atRefreshStep) : t.DispInv where
  driven := hd
  notBoth := hl.1
  lit := hl.2
  atStep := hat
  running := by simp [hr, hrun, hq]
  exists_ _ := ha.trans (hs.exists_ hrun)
  delay := hw

/-- A step that writes a pin, or none, and goes on. -/
theorem State.DispInv.rfGo {q : RfPc} (hs : s.DispInv) (hrun : s.disp.running = true) (hdelay : s.disp.pc.isDelay = false)
    (hq : q ≠ .idle) (hu : u.disp = s.disp) (hd : u.pins.DisplayDriven) (hl : u.LitInv)
    (hat : (u.rfGo q).atRefreshStep) : (u.rfGo q).DispInv := by
  refine hs.next (t := u.rfGo q) hrun ?_ ?_ hq ?_ hd hl hat
  · simp [hu]
  · simp [hu]
  · simp [hu, hs.wake_none hdelay]

/-- A turn inside of a delay begins it, waits, or ends it. -/
theorem State.DispInv.rfDelay {n : Nat} {q : RfPc} (hs : s.DispInv) (hrun : s.disp.running = true)
    (hdelay : s.disp.pc.isDelay = true) (hq : q ≠ .idle)
    (hat : ({ s with disp := { s.disp with wake := none, pc := q } } : State).atRefreshStep) : (s.rfDelay n q).DispInv := by
  unfold State.rfDelay
  split
  · exact hs.next hrun rfl rfl (hs.running.mp hrun) (fun _ => hdelay) hs.driven hs.litInv hs.atStep
  · exact hs
  · exact hs.next hrun rfl rfl hq (fun h => absurd rfl h) hs.driven hs.litInv hat

theorem rfCheck_keeps_dispInv (hs : s.DispInv) (hrun : s.disp.running = true) (hpc : s.disp.pc = .check) :
    (rfCheck s).DispInv := by
  have hat := hs.atStep
  simp only [State.atRefreshStep, hpc] at hat
  unfold rfCheck
  split
  · exact hs.rfGo hrun (hpc ▸ rfl) (by decide) rfl hs.driven hs.litInv hat
  · exact hs.next hrun rfl rfl (by simp) (by simp [hs.wake_none, hpc, RfPc.isDelay]) hs.driven hs.litInv hat.1

/-- The pattern changes only in the dark. -/
theorem rfLoad_keeps_dispInv (hs : s.DispInv) (hrun : s.disp.running = true) (hpc : s.disp.pc = .load)
    (h : rfLoad s = .next t) : t.DispInv := by
  have hat := hs.atStep
  simp only [State.atRefreshStep, hpc] at hat
  obtain ⟨hdark, hclk, hlatch, hpulses⟩ := hat
  rw [rfLoad_eq] at h
  cases h
  exact hs.next hrun rfl rfl (by simp) (by simp [hs.wake_none, hpc, RfPc.isDelay]) hs.driven (.of_dark hdark)
    ⟨hdark, hlatch, hclk, hpulses, fun i hi => absurd hi (Nat.not_lt_zero i)⟩

theorem rfBitEnd_keeps_dispInv (hs : s.DispInv) (hrun : s.disp.running = true) (hpc : s.disp.pc = .bitLowWait) :
    (rfBitEnd s).DispInv := by
  have hat := hs.atStep
  simp only [State.atRefreshStep, hpc] at hat
  have hpc0 := hs.running.mp hrun
  unfold rfBitEnd
  split
  · exact hs.next hrun rfl rfl hpc0 (fun _ => hpc ▸ rfl) hs.driven hs.litInv hs.atStep
  · exact hs
  · split
    · next hb =>
      rw [hb] at hat
      exact hs.next hrun rfl rfl (by simp) (by simp) hs.driven hs.litInv hat
    · next hb =>
      have hn : 8 - s.disp.bit.val = 7 - (s.disp.bit - 1).val := by have := bit_pred hb; omega
      rw [hn] at hat
      exact hs.next hrun rfl rfl (by simp) (by simp) hs.driven hs.litInv hat.1

theorem rfDraw_keeps_dispInv (hs : s.DispInv) (hrun : s.disp.running = true) (hpc : s.disp.pc = .selectDraw) :
    (rfDraw s).DispInv := by
  have hat := hs.atStep
  simp only [State.atRefreshStep, hpc] at hat
  obtain ⟨hl, hshows⟩ := hat
  have hlow : holdMinUs ≤ drawFrom holdMinUs holdMaxUs s.choice.draw := Nat.le_add_right _ _
  have hhigh : drawFrom holdMinUs holdMaxUs s.choice.draw ≤ holdMaxUs := by
    simp only [drawFrom, holdMinUs, holdMaxUs]
    omega
  exact hs.next hrun rfl rfl (by simp [rfDraw]) (by simp [rfDraw, hs.wake_none, hpc, RfPc.isDelay]) hs.driven hs.litInv
    ⟨hl, hshows, hlow, hhigh⟩

theorem rfHoldEnd_keeps_dispInv (hs : s.DispInv) (hrun : s.disp.running = true) (hpc : s.disp.pc = .holdEnd) :
    (rfHoldEnd s).DispInv := by
  have hat := hs.atStep
  simp only [State.atRefreshStep, hpc] at hat
  obtain ⟨⟨hlatch, hclk, -, -⟩, hshows, -, -⟩ := hat
  have hbetween : s.betweenShifts := ⟨hclk, fun h => by rw [hlatch] at h; cases h⟩
  unfold rfHoldEnd
  unfold State.showsHalf at hshows
  cases hhalf : s.disp.half with
  | units => exact hs.next hrun rfl rfl (by simp) (by simp [hs.wake_none, hpc, RfPc.isDelay]) hs.driven hs.litInv hbetween
  | tens =>
    simp only [hhalf] at hshows
    exact hs.rfGo hrun (hpc ▸ rfl) (by decide) rfl hs.driven hs.litInv ⟨hbetween, hshows.2⟩

theorem rfExitDone_keeps_dispInv (hs : s.DispInv) (hpc : s.disp.pc = .exitDone) : (rfExitDone s).DispInv where
  driven := hs.driven
  notBoth := hs.notBoth
  lit := hs.lit
  atStep := by
    have hat := hs.atStep
    simp only [State.atRefreshStep, hpc] at hat
    exact hat
  running := by simp [rfExitDone]
  exists_ h := by cases h
  delay h := absurd (hs.wake_none (hpc ▸ rfl)) h

/-- Step by step through the loop: what is written at each step, and what is then said of the lines. -/
theorem rfStep_keeps_dispInv (hs : s.DispInv) (hrun : s.disp.running = true) (h : rfStep s = .next t) : t.DispInv := by
  have hat := hs.atStep
  obtain ⟨hdata, hclk, hlatch, hunits, htens⟩ := hs.driven
  have hset := Pins.DisplayDriven.set hs.driven
  unfold rfStep at h
  cases hpc : s.disp.pc <;> simp only [hpc, State.atRefreshStep] at h hat
  case load => exact rfLoad_keeps_dispInv hs hrun hpc h
  all_goals cases h
  case idle => exact hs
  case check => exact rfCheck_keeps_dispInv hs hrun hpc
  case deselUnits =>
    rw [State.pinWrite_other (p := .selUnits) (by decide) (by decide) hunits]
    exact hs.rfGo hrun (hpc ▸ rfl) (by decide) rfl (hset .selUnits _)
      (.of_unitsOff rfl fun hon => hs.lit (.inr hon)) ⟨hat, rfl⟩
  case exitUnits =>
    rw [State.pinWrite_other (p := .selUnits) (by decide) (by decide) hunits]
    exact hs.rfGo hrun (hpc ▸ rfl) (by decide) rfl (hset .selUnits _)
      (.of_unitsOff rfl fun hon => hs.lit (.inr hon)) ⟨hat.1, rfl⟩
  case deselTens | exitTens =>
    rw [State.pinWrite_other (p := .selTens) (by decide) (by decide) htens]
    exact hs.rfGo hrun (hpc ▸ rfl) (by decide) rfl (hset .selTens _)
      (.of_dark ⟨hat.2, rfl⟩) ⟨hat.1, hat.2, rfl⟩
  case lowerClk | exitClk =>
    rw [State.pinWrite_clk_low hclk]
    exact hs.rfGo hrun (hpc ▸ rfl) (by decide) rfl (hset .clk _) (.of_dark hat.2)
      ⟨⟨rfl, hat.1.2⟩, hat.2⟩
  case lowerLatch | exitLatch =>
    rw [State.pinWrite_latch_low hlatch hat.1.2]
    exact hs.rfGo hrun (hpc ▸ rfl) (by decide) rfl (hset .latch _) (.of_dark hat.2)
      ⟨hat.2, hat.1.1, rfl, rfl⟩
  case lowerWait | bitDataWait | bitHighWait | latchWait | holdWait =>
    exact hs.rfDelay hrun (hpc ▸ rfl) (by decide) hat
  case bitData =>
    rw [State.pinWrite_other (p := .data) (by decide) (by decide) hdata]
    exact hs.rfGo hrun (hpc ▸ rfl) (by decide) rfl (hset .data _) (.of_dark hat.1) ⟨hat, rfl⟩
  case bitClkHigh =>
    obtain ⟨⟨hdark, hlow, hclkLow, hpulses, hshifted⟩, hbit⟩ := hat
    rw [State.pinWrite_clk_high hclk hclkLow, hbit]
    have hlt : s.disp.bit.val < 8 := s.disp.bit.isLt
    have hcount : s.ext.pulses + 1 = 8 - s.disp.bit.val := by omega
    exact hs.rfGo hrun (hpc ▸ rfl) (by decide) rfl (hset .clk _) (.of_dark hdark)
      ⟨⟨hdark, hlow, rfl, hcount, shifted_push rfl hshifted⟩, hbit⟩
  case bitClkLow =>
    obtain ⟨⟨hdark, hlow, -, hpulses, hshifted⟩, hbit⟩ := hat
    rw [State.pinWrite_clk_low hclk]
    exact hs.rfGo hrun (hpc ▸ rfl) (by decide) rfl (hset .clk _) (.of_dark hdark)
      ⟨⟨hdark, hlow, rfl, hpulses, hshifted⟩, hbit⟩
  case bitLowWait => exact rfBitEnd_keeps_dispInv hs hrun hpc
  case latchRaise =>
    obtain ⟨⟨hdark, hlow, hclkLow, -, hshifted⟩, hbit⟩ := hat
    rw [State.pinWrite_latch_high hlatch hlow]
    exact hs.rfGo hrun (hpc ▸ rfl) (by decide) rfl (hset .latch _) (.of_dark hdark)
      ⟨⟨rfl, hclkLow, shifted_eight hshifted, hbit⟩, hdark⟩
  case selectOn =>
    obtain ⟨hl, hoffU, hoffT⟩ := hat
    cases hhalf : s.disp.half
    · rw [selPin, State.pinWrite_other (p := .selUnits) (by decide) (by decide) hunits]
      have hshows : ({ s with pins := s.pins.set .selUnits (.driving (selOn s.cfg)) } : State).showsHalf := by
        simp [State.showsHalf, hhalf, Pins.set, PinHandle.driving, hoffT]
      exact hs.rfGo hrun (hpc ▸ rfl) (by decide) rfl (hset .selUnits _) (.of_showsHalf hshows hl) ⟨hl, hshows⟩
    · rw [selPin, State.pinWrite_other (p := .selTens) (by decide) (by decide) htens]
      have hshows : ({ s with pins := s.pins.set .selTens (.driving (selOn s.cfg)) } : State).showsHalf := by
        simp [State.showsHalf, hhalf, Pins.set, PinHandle.driving, hoffU]
      exact hs.rfGo hrun (hpc ▸ rfl) (by decide) rfl (hset .selTens _) (.of_showsHalf hshows hl) ⟨hl, hshows⟩
  case selectDraw => exact rfDraw_keeps_dispInv hs hrun hpc
  case holdEnd => exact rfHoldEnd_keeps_dispInv hs hrun hpc
  case exitDone => exact rfExitDone_keeps_dispInv hs hpc

theorem refreshTurn_keeps_dispInv (hs : s.DispInv) (h : refreshTurn s = .next t) : t.DispInv := by
  unfold refreshTurn at h
  split at h
  · next hrun => exact rfStep_keeps_dispInv hs hrun h
  · cases h; exact hs

end Sys2Proof.Machine
end

section
/-! Every turn inside of a measurement keeps the invariant of its engine (41_singlewire.md R143 to R156; 42_echo.md R171 to R177), and so
does time that passes. -/

namespace Sys2Proof.Machine

variable {s t u : State}

/-! ## The poll (41_singlewire.md R140, R141) -/

theorem waitLocalsOk_mono {now later : Nat} {w : WaitLocals} {sub : WaitSub} (hle : now ≤ later) (h : waitLocalsOk now w sub) :
    waitLocalsOk later w sub := by
  cases sub with
  | a => trivial
  | b | c => exact le_trans h hle

theorem waitLocalsOk_of_goesOn {level line : Level} {T now : Nat} {w w' : WaitLocals} {sub sub' : WaitSub}
    (h : waitTurn level T line now w sub = .goesOn sub' w') (hw : waitLocalsOk now w sub) : waitLocalsOk now w' sub' := by
  have hround := waitTurn_goesOn h
  cases sub <;> cases sub' <;> simp only [PollGoesRound] at hround
  case a.b => exact hround.le
  case b.c => exact hround.trans_le hw
  case c.b => exact hround.1.trans_le hw

theorem nowUs_mono (h : s.tau ≤ t.tau) : s.nowUs ≤ t.nowUs := Nat.div_le_div_right h

/-! ## A pin that drives its line, if it is an output -/

/-- The line of the pin follows its latch while the pin is an output (10_state.md R21). -/
def PinHandle.Follows (h : PinHandle) : Prop := h.dir = .output → h.line = h.out

theorem PinHandle.follows_write (h : PinHandle) (v : Level) : (h.write v).Follows := fun hd => h.write_line v hd

theorem PinHandle.follows_turn (h : PinHandle) (d : Dir) : (h.turn d).Follows := by
  rintro rfl
  exact h.turn_output_line

/-! ## Single wire -/

/-- The invariant does not see the other engines, nor the line while the pin is an input, nor time that passes. -/
theorem State.SwInv.mono (hs : s.SwInv) (hsw : t.sw = s.sw) (hdir : t.pins.sw.dir = s.pins.sw.dir)
    (hout : t.pins.sw.out = s.pins.sw.out) (hf : t.pins.sw.Follows) (htau : s.tau ≤ t.tau) : t.SwInv where
  driven := hf
  atStep := by
    have hat := hs.atStep
    unfold State.atSwStep at hat ⊢
    rw [hsw, hdir, hout]
    cases hpc : s.sw.pc with
    | wait st sub =>
      simp only [hpc] at hat
      obtain ⟨hin, hhigh, hcount, hlocals⟩ := hat
      exact ⟨hin, hhigh, hcount, waitLocalsOk_mono (nowUs_mono htau) hlocals⟩
    | _ => simpa only [hpc] using hat
  exists_ := hsw ▸ hs.exists_
  delay := hsw ▸ hs.delay

/-- A step inside of a measurement. -/
theorem State.SwInv.next (hs : s.SwInv) (hpc : s.sw.pc ≠ .idle) (ha : t.sw.attached = s.sw.attached)
    (hw : t.sw.wake ≠ none → t.sw.pc = .startDelay) (hf : t.pins.sw.Follows) (hat : t.atSwStep) : t.SwInv :=
  ⟨hf, hat, fun _ => ha.trans (hs.exists_ hpc), hw⟩

theorem State.SwInv.wake_none (hs : s.SwInv) (h : s.sw.pc ≠ .startDelay) : s.sw.wake = none := by
  by_contra hw
  exact h (hs.delay hw)

/-- A step that writes or turns the pin, or leaves it, and goes on. -/
theorem State.SwInv.swGo {q : SwPc} (hs : s.SwInv) (hpc : s.sw.pc ≠ .idle) (hdelay : s.sw.pc ≠ .startDelay) (hu : u.sw = s.sw)
    (hf : u.pins.sw.Follows) (hat : (u.swGo q).atSwStep) : (u.swGo q).SwInv :=
  hs.next (t := u.swGo q) hpc (by simp [hu]) (by simp [hu, hs.wake_none hdelay]) hf hat

/-- The engine is idle again with the latch high. -/
theorem State.SwInv.toIdle (hs : s.SwInv) (hdelay : s.sw.pc ≠ .startDelay) (hpc : t.sw.pc = .idle) (hw : t.sw.wake = s.sw.wake)
    (hp : t.pins.sw = s.pins.sw) (hout : s.pins.sw.out = true) : t.SwInv where
  driven := hp ▸ hs.driven
  atStep := by simpa only [State.atSwStep, hpc, hp] using hout
  exists_ h := absurd hpc h
  delay h := absurd (hw.trans (hs.wake_none hdelay)) h

theorem swStartDelay_keeps_swInv (hs : s.SwInv) (hpc : s.sw.pc = .startDelay) : (swStartDelay s).SwInv := by
  have hat := hs.atStep
  have hne : s.sw.pc ≠ .idle := by simp [hpc]
  simp only [State.atSwStep, hpc] at hat
  unfold swStartDelay
  split
  · exact hs.next hne rfl (fun _ => hpc) hs.driven (by simpa only [State.atSwStep, hpc] using hat)
  · exact hs
  · exact hs.next hne rfl (fun h => absurd rfl h) hs.driven hat

/-- One more bit makes a frame at most one bit longer (41_singlewire.md R150). -/
theorem pushBit_toNat_lt {frame : BitVec 40} {k : Nat} (b : Bool) (h : frame.toNat < 2 ^ k) :
    (pushBit frame b).toNat < 2 ^ (k + 1) := by
  have hshift : (frame <<< 1).toNat < 2 ^ (k + 1) := by
    rw [BitVec.toNat_shiftLeft, Nat.shiftLeft_eq]
    exact lt_of_le_of_lt (Nat.mod_le _ _) (by omega)
  have hbit : (if b then 1 else 0 : BitVec 40).toNat < 2 ^ (k + 1) := by
    cases b
    · exact Nat.two_pow_pos _
    · exact Nat.one_lt_two_pow (Nat.succ_ne_zero k)
  rw [pushBit, BitVec.toNat_or]
  exact Nat.or_lt_two_pow hshift hbit

/-- A wait that ends in time leads on, with one bit more after the second wait of a slot. -/
theorem swDone_keeps_swInv {st : SwWait} {sub : WaitSub} {d : Nat} {w : WaitLocals} (hs : s.SwInv) (hpc : s.sw.pc = .wait st sub) :
    (swDone st d { s with sw := { s.sw with wait := w } }).SwInv := by
  have hat := hs.atStep
  simp only [State.atSwStep, hpc] at hat
  obtain ⟨hin, hhigh, hcount, -⟩ := hat
  have hne : s.sw.pc ≠ .idle := by simp [hpc]
  have hwake : s.sw.wake = none := hs.wake_none (by simp [hpc])
  refine hs.next hne (by cases st <;> rfl) ?_ (by rw [swDone_pins]; exact hs.driven) ?_
  · cases st <;> simp [swDone, hwake]
  · cases st with
    | ackLow | ackHigh => exact ⟨hin, hhigh, trivial, trivial⟩
    | preambleEnd => exact ⟨hin, hhigh, ⟨Nat.succ_pos 39, Nat.one_pos⟩, trivial⟩
    | bitFirst => exact ⟨hin, hhigh, hcount, trivial⟩
    | bitSecond =>
      by_cases hlast : s.sw.k + 1 = swFrameBits
      · simpa [swDone, State.atSwStep, hlast] using ⟨hin, hhigh, rfl, trivial⟩
      · have hk : s.sw.k + 1 < swFrameBits := lt_of_le_of_ne hcount.1 hlast
        simpa [swDone, State.atSwStep, hlast] using ⟨hin, hhigh, ⟨hk, pushBit_toNat_lt _ hcount.2⟩, trivial⟩
    | tail => exact ⟨hin, hhigh, hcount⟩

theorem swWaitTurn_keeps_swInv {st : SwWait} {sub : WaitSub} (hs : s.SwInv) (hpc : s.sw.pc = .wait st sub) :
    (swWaitTurn st sub s).SwInv := by
  have hat := hs.atStep
  simp only [State.atSwStep, hpc] at hat
  obtain ⟨hin, hhigh, hcount, hlocals⟩ := hat
  unfold swWaitTurn
  split
  · next sub' w hw =>
    exact hs.next (by simp [hpc]) rfl (by simp [hs.wake_none, hpc]) hs.driven
      ⟨hin, hhigh, hcount, waitLocalsOk_of_goesOn hw hlocals⟩
  · exact swDone_keeps_swInv hs hpc
  · exact hs.toIdle (by simp [hpc]) rfl rfl rfl hhigh

theorem swTurn_keeps_swInv (hs : s.SwInv) : (swTurn s).SwInv := by
  have hat := hs.atStep
  unfold swTurn
  cases hpc : s.sw.pc <;> simp only [State.atSwStep, hpc] at hat ⊢
  case idle => exact hs
  case startLow =>
    exact hs.swGo (by simp [hpc]) (by simp [hpc]) rfl (PinHandle.follows_write _ _) ⟨hat, rfl⟩
  case startDelay => exact swStartDelay_keeps_swInv hs hpc
  case relHigh =>
    exact hs.swGo (by simp [hpc]) (by simp [hpc]) rfl (PinHandle.follows_write _ _) ⟨hat.1, rfl⟩
  case relIn =>
    exact hs.swGo (by simp [hpc]) (by simp [hpc]) rfl (PinHandle.follows_turn _ _) ⟨rfl, hat.2, trivial, trivial⟩
  case wait st sub => exact swWaitTurn_keeps_swInv hs hpc
  case restoreDir =>
    exact hs.swGo (by simp [hpc]) (by simp [hpc]) rfl (PinHandle.follows_turn _ _) ⟨rfl, hat.2.1, hat.2.2⟩
  case restoreHigh =>
    exact hs.swGo (by simp [hpc]) (by simp [hpc]) rfl (PinHandle.follows_write _ _) ⟨hat.1, rfl, hat.2.2⟩
  case check => exact hs.toIdle (by simp [hpc]) rfl rfl rfl hat.2.1

/-! ## Echo -/

/-- The invariant does not see the other engines, nor the line of `ECHO`, nor time that passes. -/
theorem State.EchoInv.mono (hs : s.EchoInv) (hecho : t.echo = s.echo) (htrig : t.pins.trig = s.pins.trig)
    (hdir : t.pins.echo.dir = s.pins.echo.dir) (htau : s.tau ≤ t.tau) : t.EchoInv where
  driven := htrig ▸ hs.driven
  input := hdir.trans hs.input
  trigger := by rw [htrig, hecho]; exact hs.trigger
  locals st sub h := by
    rw [hecho] at h ⊢
    exact waitLocalsOk_mono (nowUs_mono htau) (hs.locals st sub h)
  exists_ := hecho ▸ hs.exists_
  delay := hecho ▸ hs.delay

theorem State.EchoInv.wake_none (hs : s.EchoInv) (h : s.echo.pc ≠ .trigDelay) : s.echo.wake = none := by
  by_contra hw
  exact h (hs.delay hw)

/-- A step after the trigger, which stays as it is; only a poll that goes on says something of its registers. -/
theorem State.EchoInv.next (hs : s.EchoInv) (htrig : s.echo.pc.trigHigh = false) (hp : t.pins = s.pins)
    (ht : t.echo.pc.trigHigh = false) (ha : t.echo.pc ≠ .idle → t.echo.attached = true) (hw : t.echo.wake = s.echo.wake)
    (hl : ∀ st sub, t.echo.pc = .wait st sub → waitLocalsOk t.nowUs t.echo.wait sub) : t.EchoInv where
  driven := hp ▸ hs.driven
  input := hp ▸ hs.input
  trigger := by rw [hp, ht, hs.trigger, htrig]
  locals := hl
  exists_ := ha
  delay h := absurd (hw.trans (hs.wake_none (by rintro hpc; simp [hpc, EcPc.trigHigh] at htrig))) h

theorem ecTrigDelay_keeps_echoInv (hs : s.EchoInv) (hpc : s.echo.pc = .trigDelay) : (ecTrigDelay s).EchoInv := by
  have hat : s.echo.attached = true := hs.exists_ (by simp [hpc])
  have htrig := hs.trigger
  unfold ecTrigDelay
  split
  · exact ⟨hs.driven, hs.input, htrig, hs.locals, fun _ => hat, fun _ => hpc⟩
  · exact hs
  · exact ⟨hs.driven, hs.input, htrig.trans (by rw [hpc]; rfl), by simp, fun _ => hat, by simp⟩

/-- The end of the trigger pulse. -/
theorem ecTrigLow_keeps_echoInv (hs : s.EchoInv) (hpc : s.echo.pc = .trigLow) :
    ((s.pinWrite .trig false).ecGo (.wait .high .a)).EchoInv where
  driven := ⟨hs.driven.1, PinHandle.write_line _ _ hs.driven.1⟩
  input := hs.input
  trigger := rfl
  locals st sub h := by cases h; trivial
  exists_ _ := hs.exists_ (by simp [hpc])
  delay h := absurd (hs.wake_none (by simp [hpc])) h

theorem ecWaitTurn_keeps_echoInv {st : EcWait} {sub : WaitSub} (hs : s.EchoInv) (hpc : s.echo.pc = .wait st sub) :
    (ecWaitTurn st sub s).EchoInv := by
  have hat : s.echo.attached = true := hs.exists_ (by simp [hpc])
  have htrig : s.echo.pc.trigHigh = false := by simp [hpc, EcPc.trigHigh]
  unfold ecWaitTurn
  split
  · next sub' w hw =>
    refine hs.next htrig rfl rfl (fun _ => hat) rfl fun st' sub'' h => ?_
    cases h
    exact waitLocalsOk_of_goesOn hw (hs.locals st sub hpc)
  · cases st with
    | high => exact hs.next htrig rfl rfl (fun _ => hat) rfl fun st' sub' h => by cases h; trivial
    | low => exact hs.next htrig rfl rfl (fun _ => hat) rfl fun st' sub' h => by cases h
  · exact hs.next htrig rfl rfl (fun h => absurd rfl h) rfl fun st' sub' h => by cases h

theorem ecTurn_keeps_echoInv (hs : s.EchoInv) : (ecTurn s).EchoInv := by
  unfold ecTurn
  cases hpc : s.echo.pc with
  | idle => exact hs
  | trigDelay => exact ecTrigDelay_keeps_echoInv hs hpc
  | trigLow => exact ecTrigLow_keeps_echoInv hs hpc
  | wait st sub => exact ecWaitTurn_keeps_echoInv hs hpc
  | convert =>
    exact hs.next (by simp [hpc, EcPc.trigHigh]) rfl rfl (fun h => absurd rfl h) rfl fun st' sub' h => by cases h

end Sys2Proof.Machine
end

section
/-! What a step can make of the engines and of the thread that takes it (60_exceptions.md R240, R241, R243), and that every step keeps the
invariant of each engine. -/

namespace Sys2Proof.Machine

variable {s t u p : State}

/-! ## The engines apart from the callers -/

/-- `t` has the parameters, the engines but for the duty, the pins and the time of `s`. -/
structure SameEngines (s t : State) : Prop where
  cfg : t.cfg = s.cfg
  disp : t.disp = s.disp
  sw : t.sw = s.sw
  echo : t.echo = s.echo
  pins : t.pins = s.pins
  ext : t.ext = s.ext
  tau : t.tau = s.tau

theorem SameEngines.refl (s : State) : SameEngines s s := ⟨rfl, rfl, rfl, rfl, rfl, rfl, rfl⟩

theorem SameEngines.trans (h : SameEngines s u) (h' : SameEngines u t) : SameEngines s t :=
  ⟨h'.cfg.trans h.cfg, h'.disp.trans h.disp, h'.sw.trans h.sw, h'.echo.trans h.echo, h'.pins.trans h.pins, h'.ext.trans h.ext,
    h'.tau.trans h.tau⟩

/-- What is done to the calling thread touches no engine. -/
theorem SameEngines.updCaller (s : State) (f : Thread → Thread) : SameEngines s (s.updCaller f) :=
  ⟨rfl, rfl, rfl, rfl, rfl, rfl, rfl⟩

theorem continueWith_memWrite {a n v : Nat} {f : State → State} (h : continueWith (memWrite a n v s) (.next ∘ f) = .next t) :
    ∃ m, t = f { s with mem := m } := by
  obtain ⟨w, hw, hnext⟩ := continueWith_eq_next h
  obtain ⟨-, -, rfl⟩ := memWrite_eq_ok hw
  cases hnext
  exact ⟨_, rfl⟩

/-- What a turn of a HOST thread makes of the engines, and from which operation to which it takes the thread. -/
inductive HostMove (s : State) : Activity → Activity → State → Prop
  /-- An operation that ends at its first step and moves no engine but the duty. -/
  | answers : HostMove s .idle .idle s
  | setsTens (u : Byte) (hat : s.disp.attached = true) : HostMove s .idle (.setDigits u) s
  | setsUnits (u : Byte) : HostMove s (.setDigits u) .idle s
  | startsTask (hat : s.disp.attached = true) (hrun : s.disp.running = false) (hstop : s.stopInProgress = false) :
      HostMove s .idle .idle { s with disp := { s.disp with stopReq := false, running := true, pc := .check } }
  | asksStop (hat : s.disp.attached = true) (hstop : s.stopInProgress = false) :
      HostMove s .idle .stopHold { s with disp := { s.disp with stopReq := true } }
  | stopped : HostMove s .stopHold .idle s
  | swStarts (hat : s.sw.attached = true) (hpc : s.sw.pc = .idle) :
      HostMove s .idle .swMeasure ((s.pinDir .sw .output).swGo .startLow)
  | swGoesOn (hpc : s.sw.pc ≠ .idle) (h : (swTurn s).sw.pc ≠ .idle) : HostMove s .swMeasure .swMeasure (swTurn s)
  | swEnds (h : (swTurn s).sw.pc = .idle) : HostMove s .swMeasure .idle (swTurn s)
  | ecStarts (hat : s.echo.attached = true) (hpc : s.echo.pc = .idle) :
      HostMove s .idle .echoMeasure ((s.pinWrite .trig true).ecGo .trigDelay)
  | ecGoesOn (hpc : s.echo.pc ≠ .idle) (h : (ecTurn s).echo.pc ≠ .idle) : HostMove s .echoMeasure .echoMeasure (ecTurn s)
  | ecEnds (h : (ecTurn s).echo.pc = .idle) : HostMove s .echoMeasure .idle (ecTurn s)
  | attachesDisp (hat : s.disp.attached = false) : HostMove s .idle .idle (attachDisp s)
  | attachesSw (hat : s.sw.attached = false) : HostMove s .idle .idle (attachSw s)
  | attachesEcho (hat : s.echo.attached = false) : HostMove s .idle .idle (attachEcho s)
  | attachFails (e : Engine) (hat : s.attached e = false) : HostMove s .idle .idle (s.goIdle e)
  | detaches (e : Engine) (hbusy : s.busy e = false) : HostMove s .idle .idle (s.dropInstance e)

/-- A turn of the calling thread, inside of `a` before it: one of the moves, and the thread inside of the operation it leads to, with no
answer form left over when that is none. -/
inductive Operates (p : State) (a : Activity) (t : State) : Prop
  | intro (u : State) (b : Activity) (f : Thread → Thread) (move : HostMove p a b u) (same : SameEngines u t)
      (threads : t.threads = p.threads.modify p.caller f) (act : ∀ th : Thread, th.act = a → (f th).act = b)
      (reply : b = .idle → ∀ th, (f th).reply = .direct)

theorem Operates.returns {a : Activity} {r : Return} (move : HostMove p a .idle u) (same : SameEngines u t)
    (threads : t.threads = (p.giveBack r).threads) : Operates p a t :=
  .intro u .idle _ move same threads (fun _ _ => rfl) (fun _ _ => rfl)

theorem Operates.enters {a b : Activity} (hb : b ≠ .idle) (move : HostMove p a b u) (same : SameEngines u t)
    (threads : t.threads = (p.enter b).threads) : Operates p a t :=
  .intro u b _ move same threads (fun _ _ => rfl) (fun h => absurd h hb)

/-- `p` differs from `s` in the calls and the answer form of the calling thread alone. -/
inductive Prepares (s p : State) : Prop
  | intro (g : Thread → Thread) (same : SameEngines s p) (caller : p.caller = s.caller)
      (threads : p.threads = s.threads.modify s.caller g) (act : ∀ th, (g th).act = th.act)

theorem Prepares.refl (s : State) : Prepares s s :=
  .intro id (.refl s) rfl (List.modify_id _ _).symm fun _ => rfl

theorem Prepares.trans (h : Prepares s u) (h' : Prepares u t) : Prepares s t := by
  obtain ⟨g, hsame, hcaller, hthreads, hact⟩ := h
  obtain ⟨g', hsame', hcaller', hthreads', hact'⟩ := h'
  refine .intro (g' ∘ g) (hsame.trans hsame') (hcaller'.trans hcaller) ?_ fun th => (hact' (g th)).trans (hact th)
  rw [hthreads', hthreads, hcaller, List.modify_modify_eq]

theorem prepares_setReply (s : State) (r : Reply) : Prepares s (s.setReply r) :=
  .intro _ (.updCaller s _) rfl rfl fun _ => rfl

theorem prepares_popCall (s : State) : Prepares s (s.popCall s.caller) :=
  .intro _ (.updCaller s _) rfl rfl fun _ => rfl

/-! ## What a call can do -/

theorem commitDuty_operates (n : Nat) (p : State) : Operates p .idle (commitDuty n p) := by
  unfold commitDuty
  split <;> exact .returns .answers ⟨rfl, rfl, rfl, rfl, rfl, rfl, rfl⟩ rfl

theorem exec_operates {i : Instr} (h : exec i p = .next t) : Operates p .idle t := by
  cases i with
  | dispSetDigits d u =>
    simp only [exec, execDispSetDigits] at h
    split at h
    · next hat =>
      obtain ⟨m, rfl⟩ := continueWith_memWrite h
      exact .enters (by simp) (.setsTens u hat) ⟨rfl, rfl, rfl, rfl, rfl, rfl, rfl⟩ rfl
    · cases h
  | dispStart =>
    simp only [exec, execDispStart] at h
    split_ifs at h with hat hrun hstop
    cases h
    exact .returns (.startsTask hat (Bool.eq_false_of_not_eq_true hrun) (Bool.eq_false_of_not_eq_true hstop)) (.updCaller _ _) rfl
  | dispStop =>
    simp only [exec, execDispStop] at h
    split_ifs at h with hat hrun hstop
    cases h
    exact .enters (by simp) (.asksStop hat (Bool.eq_false_of_not_eq_true hstop)) (.updCaller _ _) rfl
  | swMeasure =>
    simp only [exec, execSwMeasure] at h
    split_ifs at h with hat hpc
    cases h
    exact .enters (by simp) (.swStarts hat hpc) (.updCaller _ _) rfl
  | echoMeasure =>
    simp only [exec, execEchoMeasure] at h
    split_ifs at h with hat hpc
    cases h
    exact .enters (by simp) (.ecStarts hat hpc) (.updCaller _ _) rfl
  | pwmSetDuty n =>
    simp only [exec, execPwmSetDuty] at h
    split at h
    · cases h
      split
      · exact commitDuty_operates _ p
      · exact .returns .answers (.updCaller _ _) rfl
    · cases h

theorem attachPwm_operates (p : State) : Operates p .idle (attachPwm p) := by
  unfold attachPwm
  split <;> exact .returns .answers ⟨rfl, rfl, rfl, rfl, rfl, rfl, rfl⟩ rfl

theorem attach_operates {e : Engine} (h : attach e p = .next t) : Operates p .idle t := by
  unfold attach at h
  split at h
  · cases h
  · next hat =>
    have hat := Bool.eq_false_of_not_eq_true hat
    cases h
    split
    · cases e with
      | disp => exact .returns (.attachesDisp hat) (.updCaller _ _) rfl
      | sw => exact .returns (.attachesSw hat) (.updCaller _ _) rfl
      | echo => exact .returns (.attachesEcho hat) (.updCaller _ _) rfl
      | pwm => exact attachPwm_operates p
    · exact .returns (.attachFails e hat) (.updCaller _ _) (State.raise_threads p e _)

theorem detach_operates {e : Engine} (h : detach e p = .next t) : Operates p .idle t := by
  unfold detach at h
  split_ifs at h with hat hbusy
  cases h
  exact .returns (.detaches e (Bool.eq_false_of_not_eq_true hbusy)) (.updCaller _ _) (by cases e <;> rfl)

theorem answerAtOnce_operates {e : Engine} {r : Return} (h : answerAtOnce e r p = .next t) : Operates p .idle t := by
  unfold answerAtOnce at h
  split_ifs at h
  cases h
  exact .returns .answers (.updCaller _ _) rfl

theorem issue_operates {c : Call} (h : issue c s = .next t) : ∃ p, Prepares s p ∧ Operates p .idle t := by
  have hexec : ∀ {i r}, exec i (s.setReply r) = .next t → ∃ p, Prepares s p ∧ Operates p .idle t :=
    fun h => ⟨_, prepares_setReply s _, exec_operates h⟩
  have hanswer : ∀ {e r}, answerAtOnce e r s = .next t → ∃ p, Prepares s p ∧ Operates p .idle t :=
    fun h => ⟨s, .refl s, answerAtOnce_operates h⟩
  cases c with
  | word w =>
    simp only [issue, present] at h
    split at h
    · exact ⟨s, .refl s, exec_operates h⟩
    · cases h
  | attach e => exact ⟨s, .refl s, attach_operates h⟩
  | detach e => exact ⟨s, .refl s, detach_operates h⟩
  | dispWrite bs => exact hexec h
  | dispRead off => exact hanswer h
  | swRead off => simp only [issue, issueSwRead] at h; split at h <;> [exact hexec h; exact hanswer h]
  | swWrite bs => cases h
  | echoRead off => simp only [issue, issueEchoRead] at h; split at h <;> [exact hexec h; exact hanswer h]
  | echoWrite bs => cases h
  | pwmWrite bs => simp only [issue, issuePwmWrite] at h; split at h <;> [exact hexec h; exact hanswer h]
  | pwmRead off => exact hanswer h

/-! ## What a turn can do -/

theorem swTurn_operates (hpc : s.sw.pc ≠ .idle) : Operates s .swMeasure (swTurn s) := by
  obtain ⟨hidle, r, hr⟩ | ⟨hgoes, hth⟩ := swTurn_returns s hpc
  · exact .returns (.swEnds hidle) (.refl _) hr
  · exact .intro _ _ id (.swGoesOn hpc hgoes) (.refl _) (hth.trans (List.modify_id _ _).symm) (fun _ h => h) nofun

theorem ecTurn_operates (hpc : s.echo.pc ≠ .idle) : Operates s .echoMeasure (ecTurn s) := by
  obtain ⟨hidle, r, hr⟩ | ⟨hgoes, hth⟩ := ecTurn_returns s hpc
  · exact .returns (.ecEnds hidle) (.refl _) hr
  · exact .intro _ _ id (.ecGoesOn hpc hgoes) (.refl _) (hth.trans (List.modify_id _ _).symm) (fun _ h => h) nofun

/-- A turn of a thread is no step, or it is one move of the operation that the thread is inside of or begins. -/
theorem hostTurn_operates {k : Nat} (hc : s.choice.agent = .host k) (h : hostTurn k s = .next t) :
    t = s ∨ ∃ p th, Prepares s p ∧ s.threads[s.caller]? = some th ∧ Operates p th.act t := by
  have hk : s.caller = k := caller_of_host hc
  subst hk
  unfold hostTurn at h
  split at h
  · cases h; exact .inl rfl
  · next th hth =>
    cases ha : th.act with
    | idle =>
      simp only [ha] at h
      split at h
      · cases h; exact .inl rfl
      · obtain ⟨p, hp, hop⟩ := issue_operates h
        exact .inr ⟨p, th, (prepares_popCall s).trans hp, hth, ha ▸ hop⟩
    | setDigits u =>
      simp only [ha] at h
      obtain ⟨m, rfl⟩ := continueWith_memWrite h
      exact .inr ⟨s, th, .refl s, hth, ha ▸ .returns (.setsUnits u) ⟨rfl, rfl, rfl, rfl, rfl, rfl, rfl⟩ rfl⟩
    | stopHold =>
      simp only [ha, stopHoldTurn] at h
      cases h
      split
      · exact .inl rfl
      · exact .inr ⟨s, th, .refl s, hth, ha ▸ .returns .stopped (.updCaller _ _) rfl⟩
    | swMeasure =>
      simp only [ha] at h
      cases h
      by_cases hpc : s.sw.pc = .idle
      · exact .inl (by unfold swTurn; rw [hpc])
      · exact .inr ⟨s, th, .refl s, hth, ha ▸ swTurn_operates hpc⟩
    | echoMeasure =>
      simp only [ha] at h
      cases h
      by_cases hpc : s.echo.pc = .idle
      · exact .inl (by unfold ecTurn; rw [hpc])
      · exact .inr ⟨s, th, .refl s, hth, ha ▸ ecTurn_operates hpc⟩

/-- What a step of any agent makes of the engines. -/
inductive EngineMove (s : State) : State → Prop
  | none : EngineMove s s
  | host {a b : Activity} {u : State} (h : HostMove s a b u) : EngineMove s u
  | refresh {u : State} (h : refreshTurn s = .next u) : EngineMove s u
  | env (e : EnvAct) : EngineMove s (envTurn e s)

theorem callArrives_sameEngines (k : Nat) (c : Call) (s : State) : SameEngines s (callArrives k c s) := by
  unfold callArrives
  split <;> exact ⟨rfl, rfl, rfl, rfl, rfl, rfl, rfl⟩

theorem agentTurn_engineMove (h : agentTurn s.choice.agent s = .next t) :
    ∃ p u, SameEngines s p ∧ EngineMove p u ∧ SameEngines u t := by
  cases ha : s.choice.agent with
  | host k =>
    rw [ha] at h
    obtain rfl | ⟨p, th, ⟨_, hsame, -, -, -⟩, -, ⟨u, b, f, hmove, hu, -, -, -⟩⟩ := hostTurn_operates ha h
    · exact ⟨t, t, .refl t, .none, .refl t⟩
    · exact ⟨p, u, hsame, .host hmove, hu⟩
  | refresh => rw [ha] at h; exact ⟨s, t, .refl s, .refresh h, .refl t⟩
  | env e => rw [ha] at h; cases h; exact ⟨s, _, .refl s, .env e, .refl _⟩
  | call k c => rw [ha] at h; cases h; exact ⟨s, s, .refl s, .none, callArrives_sameEngines k c s⟩

/-- What the engines' moves keep, every step keeps, if it speaks of the engines alone. -/
theorem step_keeps_of_engineMove {P : State → Prop} (hcongr : ∀ s t, SameEngines s t → P s → P t)
    (hmove : ∀ s t, EngineMove s t → P s → P t) (h : step s = .next t) (hs : P s) : P t := by
  obtain ⟨v, hv, rfl⟩ := step_eq_next h
  obtain ⟨p, u, hp, hpu, hu⟩ := agentTurn_engineMove hv
  exact hcongr u _ (hu.trans ⟨rfl, rfl, rfl, rfl, rfl, rfl, rfl⟩) (hmove p u hpu (hcongr s p hp hs))

end Sys2Proof.Machine
end

section
/-! Every step of every agent keeps the parameters and the invariants of the display, the single-wire and the echo engine (10_state.md R20,
R51; 40_display.md R130; 41_singlewire.md R143 to R156; 42_echo.md R171 to R177). -/

namespace Sys2Proof.Machine

variable {s t u : State} {a b : Activity}

/-! ## Parameters -/

theorem HostMove.cfg (h : HostMove s a b u) : u.cfg = s.cfg := by
  cases h with
  | swGoesOn | swEnds => exact swTurn_cfg s
  | ecGoesOn | ecEnds => exact ecTurn_cfg s
  | attachFails e => exact s.goIdle_cfg e
  | detaches e => cases e <;> rfl
  | _ => rfl

theorem EngineMove.cfg (h : EngineMove s t) : t.cfg = s.cfg := by
  cases h with
  | none => rfl
  | host h => exact h.cfg
  | refresh h => exact (refreshTurn_frame h).1
  | env e => rw [envTurn_update]

theorem step_cfg (h : step s = .next t) : t.cfg = s.cfg :=
  step_keeps_of_engineMove (P := fun u => u.cfg = s.cfg) (fun _ _ hsame hs => hsame.cfg.trans hs)
    (fun _ _ hmove hs => hmove.cfg.trans hs) h rfl

/-! ## Display -/

/-- The invariant of the display does not see the pins of the other engines. -/
theorem State.DispInv.frame (hs : s.DispInv) (hcfg : t.cfg = s.cfg) (hdisp : t.disp = s.disp)
    (hpins : ∃ x y z, t.pins = { s.pins with sw := x, trig := y, echo := z }) (hext : t.ext = s.ext) : t.DispInv := by
  obtain ⟨x, y, z, hpins⟩ := hpins
  obtain ⟨cfg, disp, _, _, _, _, pins, ext, _, _, _, _, _⟩ := t
  simp only at hcfg hdisp hpins hext
  subst hcfg hdisp hpins hext
  exact ⟨hs.driven, hs.notBoth, hs.lit, hs.atStep, hs.running, hs.exists_, hs.delay⟩

theorem State.DispInv.congr (hs : s.DispInv) (h : SameEngines s t) : t.DispInv :=
  hs.frame h.cfg h.disp ⟨_, _, _, h.pins⟩ h.ext

theorem State.DispInv.restLines (hs : s.DispInv) (hrun : s.disp.running = false) : s.disp.pc = .idle ∧ s.restLines := by
  have hpc : s.disp.pc = .idle := by
    by_contra hne
    simp [hs.running.mpr hne] at hrun
  have hat := hs.atStep
  simp only [State.atRefreshStep, hpc] at hat
  exact ⟨hpc, hat⟩

theorem State.DispInv.not_running_of_detached (hs : s.DispInv) (hat : s.disp.attached = false) : s.disp.running = false := by
  by_contra hrun
  simp [hs.exists_ (Bool.eq_true_of_not_eq_false hrun)] at hat

theorem startTask_keeps_dispInv (hs : s.DispInv) (hat : s.disp.attached = true) (hrun : s.disp.running = false) :
    ({ s with disp := { s.disp with stopReq := false, running := true, pc := .check } } : State).DispInv := by
  obtain ⟨hpc, ⟨hunits, htens⟩, hclk, hlatch, hpulses⟩ := hs.restLines hrun
  exact {
    driven := hs.driven
    notBoth := hs.notBoth
    lit := hs.lit
    atStep := ⟨⟨hclk, fun _ => hpulses⟩, hunits⟩
    running := by simp
    exists_ := fun _ => hat
    delay := fun hw => absurd (hs.wake_none (hpc ▸ rfl)) hw }

/-- The lines that attach sets were low, so the external register sees nothing. -/
theorem attachDisp_keeps_dispInv (hs : s.DispInv) (hat : s.disp.attached = false) : (attachDisp s).DispInv := by
  obtain ⟨-, -, hclk, hlatch, hpulses⟩ := hs.restLines (hs.not_running_of_detached hat)
  have hext : (attachDisp s).ext = s.ext := Ext.react_of_same _ _ _ hclk.symm hlatch.symm
  have hd := PinHandle.drives_driving
  have hrest : (attachDisp s).restLines := ⟨⟨rfl, rfl⟩, rfl, rfl, hext ▸ hpulses⟩
  have hlit := State.LitInv.of_dark hrest.1
  exact {
    driven := ⟨hd _, hd _, hd _, hd _, hd _⟩
    notBoth := hlit.1
    lit := hlit.2
    atStep := hrest
    running := by simp [attachDisp]
    exists_ := fun _ => rfl
    delay := fun hw => absurd rfl hw }

theorem HostMove.keeps_dispInv (h : HostMove s a b u) (hs : s.DispInv) : u.DispInv := by
  cases h with
  | answers | setsTens | setsUnits | stopped => exact hs
  | startsTask hat hrun => exact startTask_keeps_dispInv hs hat hrun
  | asksStop => exact ⟨hs.driven, hs.notBoth, hs.lit, hs.atStep, hs.running, hs.exists_, hs.delay⟩
  | swStarts => exact hs.frame rfl rfl ⟨_, _, _, rfl⟩ (Ext.react_set_other _ _ .sw _ (by decide) (by decide))
  | swGoesOn | swEnds =>
    obtain ⟨x, hpins⟩ := swTurn_pins s
    exact hs.frame (swTurn_cfg s) (swTurn_disp s) ⟨_, _, _, hpins⟩ (swTurn_ext s)
  | ecStarts => exact hs.frame rfl rfl ⟨_, _, _, rfl⟩ (Ext.react_set_other _ _ .trig _ (by decide) (by decide))
  | ecGoesOn | ecEnds =>
    obtain ⟨x, hpins⟩ := ecTurn_pins s
    exact hs.frame (ecTurn_cfg s) (ecTurn_disp s) ⟨_, _, _, hpins⟩ (ecTurn_ext s)
  | attachesDisp hat => exact attachDisp_keeps_dispInv hs hat
  | attachesSw | attachesEcho => exact hs.frame rfl rfl ⟨_, _, _, rfl⟩ (Ext.react_of_same _ _ _ rfl rfl)
  | attachFails e => exact hs.frame (s.goIdle_cfg e) (s.goIdle_disp e) ⟨_, _, _, s.goIdle_pins e⟩ (s.goIdle_ext e)
  | detaches e hbusy =>
    cases e with
    | disp =>
      simp only [State.busy, Bool.or_eq_false_iff] at hbusy
      obtain ⟨⟨hrun, -⟩, -⟩ := hbusy
      exact ⟨hs.driven, hs.notBoth, hs.lit, hs.atStep, hs.running, fun h => by simp [State.dropInstance, hrun] at h, hs.delay⟩
    | sw | echo | pwm => exact hs.frame rfl rfl ⟨_, _, _, rfl⟩ rfl

/-- ENV moves no output line, so the external register sees nothing of it. -/
theorem envTurn_ext (e : EnvAct) (hclk : s.pins.clk.dir = .output) (hlatch : s.pins.latch.dir = .output) :
    (envTurn e s).ext = s.ext :=
  match e with
  | .advance _ => rfl
  | .setLine p v => by
    simp only [envTurn]
    split
    · next hin =>
      refine Ext.react_set_other _ _ p _ ?_ ?_ <;> rintro rfl
      · exact absurd (hclk.symm.trans hin) (by decide)
      · exact absurd (hlatch.symm.trans hin) (by decide)
    · rfl

theorem envTurn_keeps_dispInv (e : EnvAct) (hs : s.DispInv) : (envTurn e s).DispInv := by
  obtain ⟨hdata, hclk, hlatch, hunits, htens⟩ := hs.driven
  have hout := fun q => envTurn_output (a := e) (s := s) (q := q)
  have hpins : (envTurn e s).pins = ⟨s.pins.data, s.pins.clk, s.pins.latch, s.pins.selUnits, s.pins.selTens,
      (envTurn e s).pins.sw, (envTurn e s).pins.trig, (envTurn e s).pins.echo⟩ :=
    (Pins.mk.injEq ..).mpr ⟨hout .data hdata.1, hout .clk hclk.1, hout .latch hlatch.1, hout .selUnits hunits.1,
      hout .selTens htens.1, rfl, rfl, rfl⟩
  have hdisp : (envTurn e s).disp = s.disp := by rw [envTurn_update]
  exact hs.frame (EngineMove.env e).cfg hdisp ⟨_, _, _, hpins⟩ (envTurn_ext e hclk.1 hlatch.1)

theorem EngineMove.keeps_dispInv (h : EngineMove s t) (hs : s.DispInv) : t.DispInv := by
  cases h with
  | none => exact hs
  | host h => exact h.keeps_dispInv hs
  | refresh h => exact refreshTurn_keeps_dispInv hs h
  | env e => exact envTurn_keeps_dispInv e hs

theorem step_keeps_dispInv (h : step s = .next t) (hs : s.DispInv) : t.DispInv :=
  step_keeps_of_engineMove (fun _ _ hsame hs => hs.congr hsame) (fun _ _ hmove hs => hmove.keeps_dispInv hs) h hs

/-! ## Single wire -/

theorem State.SwInv.frame (hs : s.SwInv) (hsw : t.sw = s.sw) (hpin : t.pins.sw = s.pins.sw) (htau : t.tau = s.tau) : t.SwInv :=
  hs.mono hsw (by rw [hpin]) (by rw [hpin]) (hpin ▸ hs.driven) htau.ge

theorem State.SwInv.congr (hs : s.SwInv) (h : SameEngines s t) : t.SwInv := hs.frame h.sw (by rw [h.pins]) h.tau

theorem State.SwInv.idle_of_detached (hs : s.SwInv) (hat : s.sw.attached = false) : s.sw.pc = .idle := by
  by_contra hpc
  simp [hs.exists_ hpc] at hat

theorem State.SwInv.out_of_idle (hs : s.SwInv) (hpc : s.sw.pc = .idle) : s.pins.sw.out = true := by
  simpa only [State.atSwStep, hpc] using hs.atStep

theorem HostMove.keeps_swInv (h : HostMove s a b u) (hs : s.SwInv) : u.SwInv := by
  cases h with
  | answers | setsTens | setsUnits | stopped => exact hs
  | startsTask | asksStop | ecStarts | attachesDisp | attachesEcho => exact hs.frame rfl rfl rfl
  | swStarts hat hpc =>
    exact ⟨PinHandle.follows_turn _ _, rfl, fun _ => hat, fun hw => absurd (hs.wake_none (by simp [hpc])) hw⟩
  | swGoesOn | swEnds => exact swTurn_keeps_swInv hs
  | ecGoesOn | ecEnds =>
    obtain ⟨x, hpins⟩ := ecTurn_pins s
    exact hs.frame (ecTurn_sw s) (by rw [hpins]; rfl) (ecTurn_tau s)
  | attachesSw => exact ⟨fun _ => rfl, rfl, fun h => absurd rfl h, fun h => absurd rfl h⟩
  | attachFails e hat =>
    cases e with
    | sw =>
      have hpc := hs.idle_of_detached hat
      exact hs.toIdle (by simp [hpc]) rfl rfl rfl (hs.out_of_idle hpc)
    | disp | echo | pwm => exact hs.frame rfl rfl rfl
  | detaches e hbusy =>
    cases e with
    | sw =>
      have hpc : s.sw.pc = .idle := by simpa [State.busy] using hbusy
      exact hs.toIdle (by simp [hpc]) hpc rfl rfl (hs.out_of_idle hpc)
    | disp | echo | pwm => exact hs.frame rfl rfl rfl

theorem envTurn_keeps_swInv (e : EnvAct) (hs : s.SwInv) : (envTurn e s).SwInv := by
  obtain ⟨hdir, hout⟩ := envTurn_dir_out e s .sw
  refine hs.mono (by rw [envTurn_update]) hdir hout (fun hd => ?_) (envTurn_tau_le e s)
  have hsame : (envTurn e s).pins.sw = s.pins.sw := envTurn_output (q := .sw) (hdir.symm.trans hd)
  rw [hsame] at hd ⊢
  exact hs.driven hd

theorem EngineMove.keeps_swInv (h : EngineMove s t) (hs : s.SwInv) : t.SwInv := by
  cases h with
  | none => exact hs
  | host h => exact h.keeps_swInv hs
  | refresh h =>
    obtain ⟨-, hsw, -, -, -, htau, -, -, -, -, hpin, -, -⟩ := refreshTurn_frame h
    exact hs.frame hsw hpin htau
  | env e => exact envTurn_keeps_swInv e hs

theorem step_keeps_swInv (h : step s = .next t) (hs : s.SwInv) : t.SwInv :=
  step_keeps_of_engineMove (fun _ _ hsame hs => hs.congr hsame) (fun _ _ hmove hs => hmove.keeps_swInv hs) h hs

/-! ## Echo -/

theorem State.EchoInv.frame (hs : s.EchoInv) (hecho : t.echo = s.echo) (htrig : t.pins.trig = s.pins.trig)
    (hpin : t.pins.echo = s.pins.echo) (htau : t.tau = s.tau) : t.EchoInv :=
  hs.mono hecho htrig (by rw [hpin]) htau.ge

theorem State.EchoInv.congr (hs : s.EchoInv) (h : SameEngines s t) : t.EchoInv :=
  hs.frame h.echo (by rw [h.pins]) (by rw [h.pins]) h.tau

theorem State.EchoInv.idle_of_detached (hs : s.EchoInv) (hat : s.echo.attached = false) : s.echo.pc = .idle := by
  by_contra hpc
  simp [hs.exists_ hpc] at hat

/-- The engine is, or is again, idle with its pins as they are. -/
theorem State.EchoInv.toIdle (hs : s.EchoInv) (hpc : s.echo.pc = .idle) (hp : t.pins = s.pins) (ht : t.echo.pc = .idle)
    (hw : t.echo.wake = s.echo.wake) : t.EchoInv :=
  hs.next (by rw [hpc]; rfl) hp (by rw [ht]; rfl) (fun h => absurd ht h) hw fun st sub h => by rw [ht] at h; cases h

theorem HostMove.keeps_echoInv (h : HostMove s a b u) (hs : s.EchoInv) : u.EchoInv := by
  cases h with
  | answers | setsTens | setsUnits | stopped => exact hs
  | startsTask | asksStop | swStarts | attachesDisp | attachesSw => exact hs.frame rfl rfl rfl rfl
  | ecStarts hat hpc =>
    exact {
      driven := ⟨hs.driven.1, PinHandle.write_line _ _ hs.driven.1⟩
      input := hs.input
      trigger := rfl
      locals := fun st sub h => by cases h
      exists_ := fun _ => hat
      delay := fun _ => rfl }
  | ecGoesOn | ecEnds => exact ecTurn_keeps_echoInv hs
  | swGoesOn | swEnds =>
    obtain ⟨x, hpins⟩ := swTurn_pins s
    exact hs.frame (swTurn_echo s) (by rw [hpins]; rfl) (by rw [hpins]; rfl) (swTurn_tau s)
  | attachesEcho =>
    exact {
      driven := PinHandle.drives_driving _
      input := rfl
      trigger := rfl
      locals := fun st sub h => by cases h
      exists_ := fun h => absurd rfl h
      delay := fun h => absurd rfl h }
  | attachFails e hat =>
    cases e with
    | echo => exact hs.toIdle (hs.idle_of_detached hat) rfl rfl rfl
    | disp | sw | pwm => exact hs.frame rfl rfl rfl rfl
  | detaches e hbusy =>
    cases e with
    | echo =>
      have hpc : s.echo.pc = .idle := by simpa [State.busy] using hbusy
      exact hs.toIdle hpc rfl hpc rfl
    | disp | sw | pwm => exact hs.frame rfl rfl rfl rfl

theorem EngineMove.keeps_echoInv (h : EngineMove s t) (hs : s.EchoInv) : t.EchoInv := by
  cases h with
  | none => exact hs
  | host h => exact h.keeps_echoInv hs
  | refresh h =>
    obtain ⟨-, -, hecho, -, -, htau, -, -, -, -, -, htrig, hpin⟩ := refreshTurn_frame h
    exact hs.frame hecho htrig hpin htau
  | env e =>
    exact hs.mono (by rw [envTurn_update]) (envTurn_output (q := .trig) hs.driven.1) (envTurn_dir_out e s .echo).1
      (envTurn_tau_le e s)

theorem step_keeps_echoInv (h : step s = .next t) (hs : s.EchoInv) : t.EchoInv :=
  step_keeps_of_engineMove (fun _ _ hsame hs => hs.congr hsame) (fun _ _ hmove hs => hmove.keeps_echoInv hs) h hs

end Sys2Proof.Machine
end

section
/-! One operation at a time per engine (60_exceptions.md R243): every step of every agent keeps the invariant of the callers, and with it
the invariant of the whole block. -/

namespace Sys2Proof.Machine

variable {s t u p : State} {a b : Activity}

/-! ## Counting the threads inside of an operation -/

/-- One element changed changes the count by what that element counts. -/
theorem countP_modify {α : Type} {l : List α} {k : Nat} {x : α} (q : α → Bool) (f : α → α) (h : l[k]? = some x) :
    (l.modify k f).countP q + (if q x then 1 else 0) = l.countP q + (if q (f x) then 1 else 0) := by
  induction l generalizing k with
  | nil => cases h
  | cons y l ih =>
    cases k with
    | zero =>
      obtain rfl : y = x := Option.some.inj h
      simp only [List.modify_zero_cons, List.countP_cons]
      omega
    | succ k =>
      have := ih h
      simp only [List.modify_succ_cons, List.countP_cons]
      omega

theorem mem_modify {α : Type} {l : List α} {k : Nat} {f : α → α} {x : α} (h : x ∈ l.modify k f) :
    x ∈ l ∨ ∃ y, l[k]? = some y ∧ x = f y := by
  rw [List.modify_eq_set_getElem?] at h
  cases hk : l[k]? with
  | none => simp only [hk, Option.map_eq_map, Option.map_none, Option.getD_none] at h; exact .inl h
  | some y =>
    simp only [hk, Option.map_eq_map, Option.map_some, Option.getD_some] at h
    exact (List.mem_or_eq_of_mem_set h).imp_right fun hx => ⟨y, rfl, hx⟩

/-- How many threads are inside of an operation of the kind `q`. -/
def State.inside (s : State) (q : Activity → Bool) : Nat := s.threads.countP fun th => q th.act

/-- Inside of `DISP_SET_DIGITS`. -/
def Activity.isSet : Activity → Bool
  | .setDigits _ => true
  | _ => false

theorem stopInProgress_iff : s.stopInProgress = true ↔ 0 < s.inside (· == .stopHold) := by
  simp [State.stopInProgress, State.inside, List.countP_pos_iff]

theorem setInProgress_iff : s.setInProgress = true ↔ 0 < s.inside Activity.isSet := by
  rw [State.inside, List.countP_pos_iff, State.setInProgress, List.any_eq_true]
  rfl

theorem inside_modify {k : Nat} {f : Thread → Thread} {th : Thread} (hth : s.threads[k]? = some th)
    (ht : t.threads = s.threads.modify k f) (hf : (f th).act = b) (q : Activity → Bool) :
    t.inside q + (if q th.act then 1 else 0) = s.inside q + (if q b then 1 else 0) := by
  rw [State.inside, ht, countP_modify _ _ hth, hf]
  rfl

/-- A change of a thread that keeps its operation changes no count. -/
theorem inside_modify_same {k : Nat} {f : Thread → Thread} (ht : t.threads = s.threads.modify k f) (hf : ∀ th, (f th).act = th.act)
    (q : Activity → Bool) : t.inside q = s.inside q := by
  cases hth : s.threads[k]? with
  | some th => exact Nat.add_right_cancel (inside_modify hth ht (hf th) q)
  | none => rw [State.inside, ht, List.modify_eq_set_getElem?, hth]; rfl

/-! ## The invariant of the callers in counts -/

/-- The clauses of `CallersInv` about the operations in progress, `n q` of them of the kind `q`. -/
structure Tally (n : (Activity → Bool) → Nat) (x : Sw) (y : Echo) (d : Disp) : Prop where
  sw : n (· == .swMeasure) = if x.pc = .idle then 0 else 1
  echo : n (· == .echoMeasure) = if y.pc = .idle then 0 else 1
  stop : n (· == .stopHold) ≤ 1
  asked : 0 < n (· == .stopHold) → d.running = true → d.stopReq = true
  stopExists : 0 < n (· == .stopHold) → d.attached = true
  setExists : 0 < n Activity.isSet → d.attached = true

/-- Idle threads do not count. -/
theorem Tally.of_kinds {m n : (Activity → Bool) → Nat} {x : Sw} {y : Echo} {d : Disp} (h : Tally n x y d)
    (hm : ∀ q : Activity → Bool, q .idle = false → m q = n q) : Tally m x y d := by
  obtain ⟨hsw, hecho, hstop, hasked, hstopExists, hsetExists⟩ := h
  rw [← hm _ rfl] at hsw hecho hstop hasked hstopExists hsetExists
  exact ⟨hsw, hecho, hstop, hasked, hstopExists, hsetExists⟩

/-- The same of a state. -/
def State.Tallied (s : State) : Prop := Tally s.inside s.sw s.echo s.disp

/-- The clause of `CallersInv` about the answer forms. -/
def State.IdleDirect (s : State) : Prop := ∀ th ∈ s.threads, th.act = .idle → th.reply = .direct

theorem callersInv_iff : s.CallersInv ↔ s.Tallied ∧ s.IdleDirect := by
  constructor
  · rintro ⟨hsw, hecho, hstop, hasked, hdirect, hstopExists, hsetExists⟩
    rw [stopInProgress_iff] at hasked hstopExists
    rw [setInProgress_iff] at hsetExists
    exact ⟨⟨hsw, hecho, hstop, hasked, hstopExists, hsetExists⟩, hdirect⟩
  · rintro ⟨⟨hsw, hecho, hstop, hasked, hstopExists, hsetExists⟩, hdirect⟩
    rw [← stopInProgress_iff] at hasked hstopExists
    rw [← setInProgress_iff] at hsetExists
    exact ⟨hsw, hecho, hstop, hasked, hdirect, hstopExists, hsetExists⟩

theorem State.Tallied.congr (hs : s.Tallied) (hsw : t.sw = s.sw) (hecho : t.echo = s.echo) (hdisp : t.disp = s.disp)
    (hin : t.inside = s.inside) : t.Tallied := by
  unfold State.Tallied
  rw [hsw, hecho, hdisp, hin]
  exact hs

/-! ## A turn of a HOST thread -/

theorem no_stop_of_eq_false (h : s.stopInProgress = false) : s.inside (· == .stopHold) = 0 := by
  by_contra hne
  rw [stopInProgress_iff.mpr (Nat.pos_of_ne_zero hne)] at h
  cases h

theorem no_set_of_eq_false (h : s.setInProgress = false) : s.inside Activity.isSet = 0 := by
  by_contra hne
  rw [setInProgress_iff.mpr (Nat.pos_of_ne_zero hne)] at h
  cases h

/-- A move that leaves its thread inside of the same operation, or of none. -/
theorem HostMove.tally_same (h : HostMove s a a u) (hswInv : s.SwInv) (hechoInv : s.EchoInv) (hs : s.Tallied) :
    Tally s.inside u.sw u.echo u.disp := by
  obtain ⟨hsw, hecho, hstop, hasked, hstopExists, hsetExists⟩ := id hs
  cases h with
  | answers => exact hs
  | startsTask hat hrun hnostop =>
    have h0 := no_stop_of_eq_false hnostop
    exact ⟨hsw, hecho, hstop, fun h => absurd h (by omega), hstopExists, hsetExists⟩
  | swGoesOn hpc hgoes =>
    rw [swTurn_echo, swTurn_disp]
    exact ⟨by rw [hsw, if_neg hpc, if_neg hgoes], hecho, hstop, hasked, hstopExists, hsetExists⟩
  | ecGoesOn hpc hgoes =>
    rw [ecTurn_sw, ecTurn_disp]
    exact ⟨hsw, by rw [hecho, if_neg hpc, if_neg hgoes], hstop, hasked, hstopExists, hsetExists⟩
  | attachesDisp => exact ⟨hsw, hecho, hstop, fun _ h => (by cases h), fun _ => rfl, fun _ => rfl⟩
  | attachesSw hat =>
    rw [hswInv.idle_of_detached hat] at hsw
    exact ⟨hsw, hecho, hstop, hasked, hstopExists, hsetExists⟩
  | attachesEcho hat =>
    rw [hechoInv.idle_of_detached hat] at hecho
    exact ⟨hsw, hecho, hstop, hasked, hstopExists, hsetExists⟩
  | attachFails e hat =>
    cases e with
    | disp | pwm => exact hs
    | sw =>
      rw [hswInv.idle_of_detached hat] at hsw
      exact ⟨hsw, hecho, hstop, hasked, hstopExists, hsetExists⟩
    | echo =>
      rw [hechoInv.idle_of_detached hat] at hecho
      exact ⟨hsw, hecho, hstop, hasked, hstopExists, hsetExists⟩
  | detaches e hbusy =>
    cases e with
    | disp =>
      simp only [State.busy, Bool.or_eq_false_iff] at hbusy
      have hstop0 := no_stop_of_eq_false hbusy.1.2
      have hset0 := no_set_of_eq_false hbusy.2
      exact ⟨hsw, hecho, hstop, hasked, fun h => absurd h (by omega), fun h => absurd h (by omega)⟩
    | sw | echo | pwm => exact ⟨hsw, hecho, hstop, hasked, hstopExists, hsetExists⟩

/-- A move that begins or ends an operation: `n` counts the threads after it. -/
theorem HostMove.tally_moved {n : (Activity → Bool) → Nat} (h : HostMove s a b u) (hab : a ≠ b) (hs : s.Tallied)
    (hn : ∀ q, n q + (if q a then 1 else 0) = s.inside q + (if q b then 1 else 0)) : Tally n u.sw u.echo u.disp := by
  obtain ⟨hsw, hecho, hstop, hasked, hstopExists, hsetExists⟩ := id hs
  have hnsw := hn (· == .swMeasure)
  have hnecho := hn (· == .echoMeasure)
  have hnstop := hn (· == .stopHold)
  have hnset := hn Activity.isSet
  cases h
  case answers | startsTask | swGoesOn | ecGoesOn | attachesDisp | attachesSw | attachesEcho | attachFails | detaches =>
    exact absurd rfl hab
  all_goals
    simp only [beq_iff_eq, reduceCtorEq, Activity.isSet, Bool.false_eq_true, if_true, if_false, Nat.add_zero]
      at hnsw hnecho hnstop hnset
  case setsTens u hat =>
    exact ⟨hnsw.trans hsw, hnecho.trans hecho, by omega, fun h => hasked (by omega), fun _ => hat, fun _ => hat⟩
  case setsUnits u =>
    exact ⟨hnsw.trans hsw, hnecho.trans hecho, by omega, fun h => hasked (by omega), fun h => hstopExists (by omega),
      fun _ => hsetExists (by omega)⟩
  case asksStop hat hnostop =>
    have h0 := no_stop_of_eq_false hnostop
    exact ⟨hnsw.trans hsw, hnecho.trans hecho, by omega, fun _ _ => rfl, fun _ => hat, fun _ => hat⟩
  case stopped =>
    exact ⟨hnsw.trans hsw, hnecho.trans hecho, by omega, fun h => hasked (by omega), fun h => hstopExists (by omega),
      fun h => hsetExists (by omega)⟩
  case swStarts hat hpc =>
    rw [if_pos hpc] at hsw
    exact ⟨hnsw.trans (congrArg (· + 1) hsw), hnecho.trans hecho, by omega, fun h => hasked (by omega),
      fun h => hstopExists (by omega), fun h => hsetExists (by omega)⟩
  case swEnds hidle =>
    rw [swTurn_echo, swTurn_disp]
    have hle : s.inside (· == .swMeasure) ≤ 1 := by rw [hsw]; split <;> decide
    exact ⟨by rw [if_pos hidle]; omega, hnecho.trans hecho, by omega, fun h => hasked (by omega),
      fun h => hstopExists (by omega), fun h => hsetExists (by omega)⟩
  case ecStarts hat hpc =>
    rw [if_pos hpc] at hecho
    exact ⟨hnsw.trans hsw, hnecho.trans (congrArg (· + 1) hecho), by omega, fun h => hasked (by omega),
      fun h => hstopExists (by omega), fun h => hsetExists (by omega)⟩
  case ecEnds hidle =>
    rw [ecTurn_sw, ecTurn_disp]
    have hle : s.inside (· == .echoMeasure) ≤ 1 := by rw [hecho]; split <;> decide
    exact ⟨hnsw.trans hsw, by rw [if_pos hidle]; omega, by omega, fun h => hasked (by omega),
      fun h => hstopExists (by omega), fun h => hsetExists (by omega)⟩

theorem HostMove.tally {n : (Activity → Bool) → Nat} (h : HostMove s a b u) (hsw : s.SwInv) (hecho : s.EchoInv) (hs : s.Tallied)
    (hn : ∀ q, n q + (if q a then 1 else 0) = s.inside q + (if q b then 1 else 0)) : Tally n u.sw u.echo u.disp := by
  by_cases hab : a = b
  · subst hab
    obtain rfl : n = s.inside := funext fun q => Nat.add_right_cancel (hn q)
    exact h.tally_same hsw hecho hs
  · exact h.tally_moved hab hs hn

theorem State.IdleDirect.modify {k : Nat} {f : Thread → Thread} (hs : s.IdleDirect) (ht : t.threads = s.threads.modify k f)
    (hf : ∀ th, s.threads[k]? = some th → (f th).act = .idle → (f th).reply = .direct) : t.IdleDirect := by
  intro th hth
  rw [ht] at hth
  obtain hold | ⟨th', hk, rfl⟩ := mem_modify hth
  · exact hs th hold
  · exact hf th' hk

theorem hostTurn_keeps_callersInv {k : Nat} (hc : s.choice.agent = .host k) (h : hostTurn k s = .next t) (hsw : s.SwInv)
    (hecho : s.EchoInv) (hs : s.CallersInv) : t.CallersInv := by
  obtain rfl | ⟨p, th, ⟨g, hp, hcaller, hpth, hg⟩, hth, ⟨u, b, f, hmove, hu, hft, hact, hreply⟩⟩ := hostTurn_operates hc h
  · exact hs
  rw [callersInv_iff] at hs ⊢
  obtain ⟨htally, hdirect⟩ := hs
  have hpTally : p.Tallied := htally.congr hp.sw hp.echo hp.disp (funext (inside_modify_same hpth hg))
  have hpthread : p.threads[p.caller]? = some (g th) := by rw [hcaller, hpth]; simp [hth]
  have hb : (f (g th)).act = b := hact (g th) (hg th)
  have hn := inside_modify hpthread hft hb
  simp only [hg] at hn
  have htTally := hmove.tally (hsw.congr hp) (hecho.congr hp) hpTally hn
  refine ⟨by rwa [State.Tallied, hu.sw, hu.echo, hu.disp], ?_⟩
  rw [hpth, hcaller, List.modify_modify_eq] at hft
  refine hdirect.modify hft fun th' hth' hidle => hreply ?_ _
  rw [hth] at hth'
  cases hth'
  exact hb.symm.trans hidle

/-! ## The other agents -/

theorem rfDelay_task (n : Nat) (q : RfPc) :
    (s.rfDelay n q).disp.attached = s.disp.attached ∧ (s.rfDelay n q).disp.stopReq = s.disp.stopReq := by
  unfold State.rfDelay
  split <;> exact ⟨rfl, rfl⟩

theorem rfBitEnd_task : (rfBitEnd s).disp.attached = s.disp.attached ∧ (rfBitEnd s).disp.stopReq = s.disp.stopReq := by
  unfold rfBitEnd
  split
  · exact ⟨rfl, rfl⟩
  · exact ⟨rfl, rfl⟩
  · split <;> exact ⟨rfl, rfl⟩

theorem rfStep_task (h : rfStep s = .next t) : t.disp.attached = s.disp.attached ∧ t.disp.stopReq = s.disp.stopReq := by
  unfold rfStep at h
  cases hpc : s.disp.pc <;> simp only [hpc] at h
  case load => rw [rfLoad_eq] at h; cases h; exact ⟨rfl, rfl⟩
  case check => cases h; unfold rfCheck; split <;> exact ⟨rfl, rfl⟩
  case lowerWait | bitDataWait | bitHighWait | latchWait | holdWait => cases h; exact rfDelay_task _ _
  case bitLowWait => cases h; exact rfBitEnd_task
  case holdEnd => cases h; unfold rfHoldEnd; split <;> exact ⟨rfl, rfl⟩
  all_goals cases h; exact ⟨rfl, rfl⟩

/-- A turn of REFRESH neither attaches the display nor asks for a stop, and it may end the task but starts none. -/
theorem refreshTurn_task (h : refreshTurn s = .next t) : t.disp.attached = s.disp.attached ∧ t.disp.stopReq = s.disp.stopReq ∧
    (t.disp.running = true → s.disp.running = true) := by
  unfold refreshTurn at h
  split at h
  · next hrun =>
    obtain ⟨hat, hstop⟩ := rfStep_task h
    exact ⟨hat, hstop, fun _ => hrun⟩
  · cases h; exact ⟨rfl, rfl, id⟩

theorem refreshTurn_keeps_callersInv (h : refreshTurn s = .next t) (hs : s.CallersInv) : t.CallersInv := by
  obtain ⟨hat, hstop, hrun⟩ := refreshTurn_task h
  obtain ⟨-, hsw, hecho, -, -, -, hthreads, -⟩ := refreshTurn_frame h
  obtain ⟨cSw, cEcho, cStop, cAsked, cDirect, cStopExists, cSetExists⟩ := hs
  constructor <;> simp only [State.stopInProgress, State.setInProgress, hthreads, hsw, hecho, hat, hstop]
  · exact cSw
  · exact cEcho
  · exact cStop
  · exact fun h hr => cAsked h (hrun hr)
  · exact cDirect
  · exact cStopExists
  · exact cSetExists

theorem envTurn_keeps_callersInv (e : EnvAct) (hs : s.CallersInv) : (envTurn e s).CallersInv := by
  rw [envTurn_update]
  exact ⟨hs.measuringSw, hs.measuringEcho, hs.stopping, hs.stopAsked, hs.idleDirect, hs.stoppingExists, hs.settingExists⟩

/-- A call that arrives begins no operation: its thread has it to make, or comes into being idle. -/
theorem callArrives_keeps_callersInv (k : Nat) (c : Call) (hs : s.CallersInv) : (callArrives k c s).CallersInv := by
  rw [callersInv_iff] at hs ⊢
  obtain ⟨htally, hdirect⟩ := hs
  unfold callArrives
  split
  · exact ⟨htally.congr rfl rfl rfl (funext (inside_modify_same rfl fun _ => rfl)),
      hdirect.modify rfl fun th hth => hdirect th (List.mem_of_getElem? hth)⟩
  · refine ⟨?_, fun th hth hidle => ?_⟩
    · exact htally.of_kinds fun q hq => by simp [State.inside, hq]
    · rcases List.mem_append.mp hth with hold | hnew
      · exact hdirect th hold hidle
      · rw [List.mem_singleton.mp hnew]

theorem State.CallersInv.spend (hs : s.CallersInv) : s.spend.CallersInv :=
  ⟨hs.measuringSw, hs.measuringEcho, hs.stopping, hs.stopAsked, hs.idleDirect, hs.stoppingExists, hs.settingExists⟩

theorem step_keeps_callersInv (h : step s = .next t) (hsw : s.SwInv) (hecho : s.EchoInv) (hs : s.CallersInv) : t.CallersInv := by
  obtain ⟨u, hu, rfl⟩ := step_eq_next h
  refine State.CallersInv.spend ?_
  cases ha : s.choice.agent with
  | host k => rw [ha] at hu; exact hostTurn_keeps_callersInv ha hu hsw hecho hs
  | refresh => rw [ha] at hu; exact refreshTurn_keeps_callersInv hu hs
  | env e => rw [ha] at hu; cases hu; exact envTurn_keeps_callersInv e hs
  | call k c => rw [ha] at hu; cases hu; exact callArrives_keeps_callersInv k c hs

/-! ## The whole block -/

/-- Settles O53: engine by engine, and the callers, whose count needs the measuring engines' invariants. -/
theorem stepKeepsInv : Obligations.StepKeepsInv := fun _ _ hs h =>
  { params := (step_cfg h).symm ▸ hs.params
    memory := (keeps_step h).mem hs.memory
    disp := step_keeps_dispInv h hs.disp
    sw := step_keeps_swInv h hs.sw
    echo := step_keeps_echoInv h hs.echo
    pwm := (keeps_step h).pwm hs.pwm
    callers := step_keeps_callersInv h hs.sw hs.echo hs.callers }

end Sys2Proof.Machine
end

section
/-! The decoder against the encoder (30_encoding.md R90 to R98). -/

namespace Sys2Proof

/-! ## Decoding an encoded instruction -/

theorem zeroField_digits (t u : Byte) : zeroField (mkWord 0x10 ((0 : BitVec 16) ++ (t ++ u))) = 0 := by
  rw [zeroField_mkWord]
  exact BitVec.extractLsb'_append_eq_left

theorem tensField_digits (t u : Byte) : tensField (mkWord 0x10 ((0 : BitVec 16) ++ (t ++ u))) = t := by
  rw [tensField_mkWord, BitVec.extractLsb'_append_eq_of_add_le (by omega)]
  exact BitVec.extractLsb'_append_eq_left

theorem unitsField_digits (t u : Byte) : unitsField (mkWord 0x10 ((0 : BitVec 16) ++ (t ++ u))) = u := by
  rw [unitsField_mkWord, BitVec.extractLsb'_append_eq_of_add_le (by omega)]
  exact BitVec.extractLsb'_append_eq_right

/-- A signed operand in the range of R96 is the number its 32 bits stand for. -/
theorem toInt_ofInt_of_wf {p : Int} (h : (Instr.pwmSetDuty p).wf = true) : (BitVec.ofInt 32 p).toInt = p := by
  obtain ⟨hlo, hhi⟩ := of_decide_eq_true h
  exact BitVec.toInt_ofInt_eq_self (by decide) (by omega) (by omega)

/-- Settles O1, one form of R91 to R96 at a time. -/
theorem decodeOfEncode : Obligations.DecodeOfEncode := by
  intro i h
  cases i with
  | dispSetDigits t u =>
    simp only [decode, encode, opField_mkWord, zeroField_digits, tensField_digits, unitsField_digits, if_true]
  | dispStart => rfl
  | dispStop => rfl
  | swMeasure => rfl
  | echoMeasure => rfl
  | pwmSetDuty p => simp [decode, encode, opField_mkWord, argField_mkWord, toInt_ofInt_of_wf h]

/-! ## Encoding a decoded instruction -/

theorem mkWord_eq_of_fields {w : CmdWord} {op : Byte} {arg : BitVec 32} (ho : opField w = op) (ha : argField w = arg) :
    mkWord op arg = w := by
  rw [← ho, ← ha, mkWord_fields]

/-- The argument of `DISP_SET_DIGITS` is its three fields (R91). -/
theorem argField_eq_append (w : CmdWord) : argField w = zeroField w ++ (tensField w ++ unitsField w) := by
  have hdigits : tensField w ++ unitsField w = w.extractLsb' 0 16 := BitVec.extractLsb'_append_extractLsb'_eq_extractLsb' rfl
  have hall : zeroField w ++ w.extractLsb' 0 16 = argField w := BitVec.extractLsb'_append_extractLsb'_eq_extractLsb' rfl
  rw [hdigits, hall]

theorem decodeBare_eq_ok_iff {i j : Instr} {w : CmdWord} : decodeBare i w = .ok j ↔ argField w = 0 ∧ i = j := by
  by_cases h : argField w = 0#32 <;> simp [decodeBare, h]

theorem decodeBare_eq_error_iff {i : Instr} {w : CmdWord} : (∃ e, decodeBare i w = .error e) ↔ argField w ≠ 0 := by
  by_cases h : argField w = 0#32 <;> simp [decodeBare, h]

/-- A form without operands is the word of its operation code and a zero argument (R92 to R95). -/
theorem encode_of_decodeBare {i j : Instr} {w : CmdWord} {op : Byte} (hi : i.wf = true) (he : encode i = mkWord op 0)
    (ho : opField w = op) (h : decodeBare i w = .ok j) : j.wf = true ∧ encode j = w := by
  obtain ⟨ha, rfl⟩ := decodeBare_eq_ok_iff.mp h
  exact ⟨hi, he.trans (mkWord_eq_of_fields ho ha)⟩

theorem pwmSetDuty_toInt_wf (a : BitVec 32) : (Instr.pwmSetDuty a.toInt).wf = true :=
  decide_eq_true ⟨BitVec.le_toInt a, Int.le_of_lt_add_one BitVec.toInt_lt⟩

/-- Settles O2, branch by branch of the decoder: the operation code and the argument a branch tests are those the encoder writes. -/
theorem encodeOfDecode : Obligations.EncodeOfDecode := by
  intro w i h
  unfold decode at h
  split_ifs at h with h10 hz h11 h12 h20 h30 h40
  · cases h
    exact ⟨rfl, mkWord_eq_of_fields h10 (by rw [argField_eq_append, hz])⟩
  · exact encode_of_decodeBare rfl rfl h11 h
  · exact encode_of_decodeBare rfl rfl h12 h
  · exact encode_of_decodeBare rfl rfl h20 h
  · exact encode_of_decodeBare rfl rfl h30 h
  · cases h
    exact ⟨pwmSetDuty_toInt_wf _, mkWord_eq_of_fields h40 (BitVec.ofInt_toInt).symm⟩

/-! ## The words that spell no operation (R98) -/

theorem decode_eq_error_iff (w : CmdWord) : (∃ e, decode w = .error e) ↔
    (opField w).toNat ∉ [0x10, 0x11, 0x12, 0x20, 0x30, 0x40]
      ∨ (opField w).toNat = 0x10 ∧ zeroField w ≠ 0
      ∨ (opField w).toNat ∈ [0x11, 0x12, 0x20, 0x30] ∧ argField w ≠ 0 := by
  unfold decode
  split_ifs with h10 hz h11 h12 h20 h30 h40
  · simp [h10, hz]
  · simpa [h10] using hz
  · simp [h11, decodeBare_eq_error_iff]
  · simp [h12, decodeBare_eq_error_iff]
  · simp [h20, decodeBare_eq_error_iff]
  · simp [h30, decodeBare_eq_error_iff]
  · simp [h40]
  · have hop : (opField w).toNat ∉ [0x10, 0x11, 0x12, 0x20, 0x30, 0x40] := by
      rw [← BitVec.toNat_inj] at h10 h11 h12 h20 h30 h40
      simpa using ⟨h10, h11, h12, h20, h30, h40⟩
    exact iff_of_true ⟨_, rfl⟩ (.inl hop)

theorem present_of_decode_error {w : CmdWord} {e : DecodeError} (s : Machine.State) (h : decode w = .error e) :
    Machine.present w s = .refused (.invalidWord e) := by
  simp [Machine.present, h]

/-- Settles O3. -/
theorem invalidWordsRefused : Obligations.InvalidWordsRefused :=
  fun w => ⟨decode_eq_error_iff w, fun s _ => present_of_decode_error s⟩

/-- Settles O4, by evaluating the decoder on each word. -/
theorem writtenWordsDecode : Obligations.WrittenWordsDecode :=
  ⟨rfl, rfl, rfl, rfl, rfl, rfl, rfl, rfl, rfl, rfl⟩

end Sys2Proof

namespace Sys2Proof.Machine

/-- Settles O5: `step_word` at the calling thread. -/
theorem stepRunsPresentedWord : Obligations.StepRunsPresentedWord := by
  rintro s w i ⟨hc, th, hk, ha, hw⟩ hd
  obtain ⟨rest, hcalls⟩ := List.head?_eq_some_iff.mp hw
  exact step_word hc hk ha hcalls hd

end Sys2Proof.Machine
end

section
/-! The segment table and its lookup (30_encoding.md R81, R82; 40_display.md R110). -/

namespace Sys2Proof.Machine

theorem digitToSegments_digit (c : Config) {d : Byte} (h : d.toNat ≤ 9) :
    digitToSegments c d = c.segTable[d.toNat]'(Nat.lt_of_le_of_lt h (by decide)) := dif_pos h

theorem digitToSegments_error (c : Config) {d : Byte} (h : 10 ≤ d.toNat) : digitToSegments c d = c.segTable[10] :=
  dif_neg (by omega)

/-- What an admitted table says of each digit entry (R81 (b), (c)). -/
theorem segTable_digit_of_wf {c : Config} (h : c.wf = true) {i : Nat} (hi : i < 10) :
    c.segTable[i].getLsbD 7 = false ∧ c.segTable[i] ≠ c.segTable[10] := by
  obtain ⟨hall, -⟩ := Bool.and_eq_true_iff.mp h
  have hmem : c.segTable[i] ∈ c.segTable.toList.take 10 :=
    List.mem_take_iff_getElem.mpr ⟨i, by simpa using hi, by simp⟩
  simpa using List.all_eq_true.mp hall _ hmem

/-- Settles O8. -/
theorem segmentTableAdmitted : Obligations.SegmentTableAdmitted := by
  refine ⟨fun c d e hwf hd he => ?_, defaultConfig_wf⟩
  rw [digitToSegments_digit c hd, digitToSegments_error c he]
  exact segTable_digit_of_wf hwf (by omega)

end Sys2Proof.Machine
end

section
/-! The frame that the source's sensor sends (30_encoding.md R86, R89; 41_singlewire.md R150; 60_exceptions.md R234). -/

namespace Sys2Proof.Machine

theorem getLsbD_pushBit_zero (f : BitVec 40) (b : Bool) : (pushBit f b).getLsbD 0 = b := by
  cases b <;> simp [pushBit]

theorem getLsbD_pushBit_succ (f : BitVec 40) (b : Bool) {i : Nat} (hi : i + 1 < 40) :
    (pushBit f b).getLsbD (i + 1) = f.getLsbD i := by
  cases b <;> simp [pushBit, hi, BitVec.getLsbD_eq_getElem (Nat.lt_of_succ_lt hi)]

/-- Pushing bit `n` of `f` behind the bits above it. -/
theorem pushBit_ushiftRight (f : BitVec 40) (n : Nat) : pushBit (f >>> (n + 1)) (f.getLsbD n) = f >>> n := by
  apply BitVec.eq_of_getLsbD_eq
  intro i hi
  cases i with
  | zero => rw [getLsbD_pushBit_zero, BitVec.getLsbD_ushiftRight, Nat.add_zero]
  | succ i =>
    rw [getLsbD_pushBit_succ _ _ hi, BitVec.getLsbD_ushiftRight, BitVec.getLsbD_ushiftRight, Nat.add_right_comm, Nat.add_assoc]

theorem bitOf_nominal (b : Bool) : bitOf 50 (if b then 70 else 26) = b := by cases b <;> rfl

/-- After `n` nominal slots the top `n` bits of the frame have been taken, bit 39 first. -/
theorem frame_of_first_slots (f : BitVec 40) (n : Nat) (hn : n ≤ 40) :
    ((List.range n).map fun i => (50, if f.getLsbD (39 - i) then 70 else 26)).foldl
      (fun g (d : Nat × Nat) => pushBit g (bitOf d.1 d.2)) 0 = f >>> (40 - n) := by
  induction n with
  | zero => exact (BitVec.ushiftRight_eq_zero le_rfl).symm
  | succ n ih =>
    rw [List.range_succ, List.map_append, List.foldl_append, ih (by omega), show 40 - n = 39 - n + 1 by omega]
    simp only [List.map_cons, List.map_nil, List.foldl_cons, List.foldl_nil, bitOf_nominal]
    rw [pushBit_ushiftRight, show 40 - (n + 1) = 39 - n by omega]

/-- Settles O33: forty slots take the whole frame. -/
theorem nominalSlotsDecode : Obligations.NominalSlotsDecode :=
  fun f => ⟨by simp [nominalSlots], (frame_of_first_slots f 40 le_rfl).trans (BitVec.ushiftRight_zero f)⟩

end Sys2Proof.Machine
end

section
/-! The display operations up to their return (40_display.md R110 to R114). -/

namespace Sys2Proof.Machine

variable {s : State}

/-- Settles O19. -/
theorem displayInvKept : Obligations.DisplayInvKept := fun _ _ hs h => step_keeps_dispInv h hs

/-- Settles O7: the two branches of the lookup. -/
theorem digitLookup : Obligations.DigitLookup := by
  refine ⟨fun c d => ⟨fun i hi => ?_, digitToSegments_error c⟩, rfl, rfl⟩
  rw [digitToSegments_digit c (by omega)]
  exact getElem_congr_idx hi

/-! ## The first step of each operation -/

theorem exec_dispSetDigits (t u : Byte) (hat : s.disp.attached = true) :
    exec (.dispSetDigits t u) s =
      .next (({ s with mem := Memory.write s.mem 0 t } : State).enter (.setDigits u)) := by
  simp [exec, execDispSetDigits, hat]

theorem exec_dispStart (hat : s.disp.attached = true) (hrun : s.disp.running = false) (hstop : s.stopInProgress = false) :
    exec .dispStart s =
      .next (({ s with disp := { s.disp with stopReq := false, running := true, pc := .check } } : State).giveBack .void) := by
  simp [exec, execDispStart, hat, hrun, hstop]

theorem exec_dispStop (hat : s.disp.attached = true) (hrun : s.disp.running = true) (hstop : s.stopInProgress = false) :
    exec .dispStop s = .next (({ s with disp := { s.disp with stopReq := true } } : State).enter .stopHold) := by
  simp [exec, execDispStop, hat, hrun, hstop]

/-- In a canonical memory a byte written is read back, and every other byte stays. -/
theorem read_write_of_wf {m : List Host.Cell} (h : Memory.wf m = true) (a : Nat) (v : Byte) :
    Memory.read (Memory.write m a v) a = v ∧ ∀ b, b ≠ a → Memory.read (Memory.write m a v) b = Memory.read m b := by
  have hread := fun b => Memory.read_write m a b v (Memory.rising_of_wf h)
  exact ⟨by rw [hread, if_pos rfl], fun b hb => by rw [hread, if_neg hb.symm]⟩

/-- Settles O9. -/
theorem setDigitsWritesTens : Obligations.SetDigitsWritesTens := by
  intro s t u hat hwf
  obtain ⟨hsame, hother⟩ := read_write_of_wf hwf 0 t
  exact ⟨_, exec_dispSetDigits t u hat, hsame, hother, callerEnters_enter rfl, rfl⟩

/-- Settles O11: the three branches of the operation. -/
theorem startLaunchesRefresh : Obligations.StartLaunchesRefresh := by
  refine fun s hat => ⟨fun hrun hstop => ?_, fun hrun => ?_, fun hrun hstop => ?_⟩
  · exact ⟨_, exec_dispStart hat hrun hstop, rfl, fun _ => rfl, callerReturns_giveBack rfl, rfl⟩
  · simp [exec, execDispStart, hat, hrun]
  · simp [exec, execDispStart, hat, hrun, hstop]

/-- Settles O12. -/
theorem stopRequestsAndHolds : Obligations.StopRequestsAndHolds :=
  fun _ hat hrun hstop => ⟨_, exec_dispStop hat hrun hstop, rfl, fun _ => rfl, callerEnters_enter rfl, rfl⟩

/-! ## The later steps of `DISP_SET_DIGITS` and `DISP_STOP` -/

theorem step_setDigits {u : Byte} (h : s.runs (.setDigits u)) :
    step s = .next (({ s with mem := Memory.write s.mem 1 u } : State).giveBack .void).spend := by
  obtain ⟨hc, th, hk, ha⟩ := h
  simp [step, hc, agentTurn, hostTurn, hk, ha, setDigitsSecond]

theorem step_stopHold (h : s.runs .stopHold) : step s = .next (stopHoldTurn s).spend := by
  obtain ⟨hc, th, hk, ha⟩ := h
  simp [step, hc, agentTurn, hostTurn, hk, ha]

/-- Settles O10. -/
theorem setDigitsWritesUnits : Obligations.SetDigitsWritesUnits := by
  intro s u hruns hwf
  obtain ⟨hsame, hother⟩ := read_write_of_wf hwf 1 u
  exact ⟨_, step_setDigits hruns, hsame, hother, callerReturns_giveBack rfl, rfl⟩

/-- Settles O13: the invariant says what a task that is not running leaves on its lines. -/
theorem stopReturnsWhenExited : Obligations.StopReturnsWhenExited := by
  intro s hs hruns
  have hstep := step_stopHold hruns
  refine ⟨fun hrun => ?_, fun hrun => ?_⟩
  · rw [hstep, stopHoldTurn, if_pos hrun]
  · obtain ⟨hpc, hdark, hclk, hlatch, -⟩ := hs.disp.restLines hrun
    rw [stopHoldTurn, if_neg (by simp [hrun])] at hstep
    exact ⟨_, hstep, callerReturns_giveBack rfl, hrun, hpc, hdark, hclk, hlatch, rfl⟩

end Sys2Proof.Machine
end

section
/-! The refresh loop step by step: which steps write a pin, which wait, and what the others make of the display registers
(40_display.md R116 to R128). -/

namespace Sys2Proof.Machine

variable {s t u : State} {pc q : RfPc} {p : Pin} {v : Level} {w : Nat}

/-! ## The steps that write a pin -/

/-- The pin that the step `pc` writes, the level it writes, and the step it goes to. -/
def State.pinStep (s : State) : RfPc → Option (Pin × Level × RfPc)
  | .deselUnits => some (.selUnits, selOff s.cfg, .deselTens)
  | .deselTens => some (.selTens, selOff s.cfg, .lowerClk)
  | .lowerClk => some (.clk, false, .lowerLatch)
  | .lowerLatch => some (.latch, false, .lowerWait)
  | .bitData => some (.data, s.disp.pat.getLsbD s.disp.bit.val, .bitDataWait)
  | .bitClkHigh => some (.clk, true, .bitHighWait)
  | .bitClkLow => some (.clk, false, .bitLowWait)
  | .latchRaise => some (.latch, true, .latchWait)
  | .selectOn => some (selPin s.disp.half, selOn s.cfg, .selectDraw)
  | .exitUnits => some (.selUnits, selOff s.cfg, .exitTens)
  | .exitTens => some (.selTens, selOff s.cfg, .exitClk)
  | .exitClk => some (.clk, false, .exitLatch)
  | .exitLatch => some (.latch, false, .exitDone)
  | _ => none

theorem refreshTurn_of_running (hrun : s.disp.running = true) : refreshTurn s = rfStep s := if_pos hrun

theorem refreshTurn_write (hrun : s.disp.running = true) (hpc : s.disp.pc = pc) (hw : s.pinStep pc = some (p, v, q)) :
    refreshTurn s = .next ((s.pinWrite p v).rfGo q) := by
  rw [refreshTurn_of_running hrun, rfStep, hpc]
  cases pc <;> cases hw <;> rfl

/-! ## The delays (60_exceptions.md R231) -/

/-- How many nanoseconds the delay at the step `pc` lasts at least. -/
def Disp.delayNs (d : Disp) : RfPc → Nat
  | .holdWait => 1000 * d.holdUs
  | _ => 100

/-- The display registers when the delay at the step `pc` is over. -/
def Disp.afterDelay (d : Disp) : RfPc → Disp
  | .lowerWait => { d with wake := none, pc := .load }
  | .bitDataWait => { d with wake := none, pc := .bitClkHigh }
  | .bitHighWait => { d with wake := none, pc := .bitClkLow }
  | .bitLowWait =>
    if d.bit = 0 then { d with wake := none, pc := .latchRaise } else { d with wake := none, bit := d.bit - 1, pc := .bitData }
  | .latchWait => { d with wake := none, pc := .selectOn }
  | .holdWait => { d with wake := none, pc := .holdEnd }
  | _ => d

theorem refreshTurn_begins (hrun : s.disp.running = true) (hpc : s.disp.pc = pc) (hdelay : pc.isDelay = true)
    (hwake : s.disp.wake = none) :
    refreshTurn s = .next { s with disp := { s.disp with wake := some (s.tau + s.disp.delayNs pc) } } := by
  rw [refreshTurn_of_running hrun, rfStep, hpc]
  cases pc <;> cases hdelay <;> simp only [State.rfDelay, rfBitEnd, delayTurn, hwake] <;> rfl

theorem refreshTurn_held (hrun : s.disp.running = true) (hpc : s.disp.pc = pc) (hdelay : pc.isDelay = true)
    (hwake : s.disp.wake = some w) (hlt : s.tau < w) : refreshTurn s = .next s := by
  have hheld : ∀ n, delayTurn n s.tau s.disp.wake = .held := fun n => by simp [delayTurn, hwake, hlt]
  rw [refreshTurn_of_running hrun, rfStep, hpc]
  cases pc <;> cases hdelay <;> simp only [State.rfDelay, rfBitEnd, hheld]

theorem refreshTurn_over (hrun : s.disp.running = true) (hpc : s.disp.pc = pc) (hdelay : pc.isDelay = true)
    (hwake : s.disp.wake = some w) (hle : w ≤ s.tau) :
    refreshTurn s = .next { s with disp := s.disp.afterDelay pc } := by
  have hover : ∀ n, delayTurn n s.tau s.disp.wake = .over := fun n => by simp [delayTurn, hwake, hle]
  rw [refreshTurn_of_running hrun, rfStep, hpc]
  cases pc <;> cases hdelay
  case bitLowWait =>
    simp only [rfBitEnd, hover, Disp.afterDelay]
    split <;> rfl
  all_goals
    simp only [State.rfDelay, hover]
    rfl

/-! ## All steps -/

theorem refreshTurn_check (hrun : s.disp.running = true) (hpc : s.disp.pc = .check) : refreshTurn s = .next (rfCheck s) := by
  rw [refreshTurn_of_running hrun, rfStep, hpc]

theorem refreshTurn_load (hrun : s.disp.running = true) (hpc : s.disp.pc = .load) :
    refreshTurn s = .next { s with disp := { s.disp with
      pat := digitToSegments s.cfg (Memory.read s.mem (digitAddr s.disp.half)), bit := 7, pc := .bitData } } := by
  rw [refreshTurn_of_running hrun, rfStep, hpc]
  exact rfLoad_eq s

theorem refreshTurn_draw (hrun : s.disp.running = true) (hpc : s.disp.pc = .selectDraw) : refreshTurn s = .next (rfDraw s) := by
  rw [refreshTurn_of_running hrun, rfStep, hpc]

theorem refreshTurn_holdEnd (hrun : s.disp.running = true) (hpc : s.disp.pc = .holdEnd) : refreshTurn s = .next (rfHoldEnd s) := by
  rw [refreshTurn_of_running hrun, rfStep, hpc]

theorem refreshTurn_exitDone (hrun : s.disp.running = true) (hpc : s.disp.pc = .exitDone) :
    refreshTurn s = .next (rfExitDone s) := by
  rw [refreshTurn_of_running hrun, rfStep, hpc]

/-- What a turn of the running task makes of the state. -/
inductive RefreshMove (s : State) : State → Prop
  | stays (hpc : s.disp.pc = .idle) : RefreshMove s s
  | checks (hpc : s.disp.pc = .check) : RefreshMove s (rfCheck s)
  | samples (hpc : s.disp.pc = .load) :
      RefreshMove s { s with disp := { s.disp with
        pat := digitToSegments s.cfg (Memory.read s.mem (digitAddr s.disp.half)), bit := 7, pc := .bitData } }
  | writes {p : Pin} {v : Level} {q : RfPc} (hw : s.pinStep s.disp.pc = some (p, v, q)) :
      RefreshMove s ((s.pinWrite p v).rfGo q)
  | begins (hdelay : s.disp.pc.isDelay = true) (hwake : s.disp.wake = none) :
      RefreshMove s { s with disp := { s.disp with wake := some (s.tau + s.disp.delayNs s.disp.pc) } }
  | waits {w : Nat} (hdelay : s.disp.pc.isDelay = true) (hwake : s.disp.wake = some w) (hlt : s.tau < w) : RefreshMove s s
  | wakes {w : Nat} (hdelay : s.disp.pc.isDelay = true) (hwake : s.disp.wake = some w) (hle : w ≤ s.tau) :
      RefreshMove s { s with disp := s.disp.afterDelay s.disp.pc }
  | draws (hpc : s.disp.pc = .selectDraw) : RefreshMove s (rfDraw s)
  | endsHold (hpc : s.disp.pc = .holdEnd) : RefreshMove s (rfHoldEnd s)
  | exits (hpc : s.disp.pc = .exitDone) : RefreshMove s (rfExitDone s)

theorem refreshMove_of_delay (hrun : s.disp.running = true) (hdelay : s.disp.pc.isDelay = true) (h : refreshTurn s = .next t) :
    RefreshMove s t := by
  cases hwake : s.disp.wake with
  | none => rw [refreshTurn_begins hrun rfl hdelay hwake] at h; cases h; exact .begins hdelay hwake
  | some w =>
    by_cases hle : w ≤ s.tau
    · rw [refreshTurn_over hrun rfl hdelay hwake hle] at h; cases h; exact .wakes hdelay hwake hle
    · have hlt := Nat.lt_of_not_le hle
      rw [refreshTurn_held hrun rfl hdelay hwake hlt] at h; cases h; exact .waits hdelay hwake hlt

theorem refreshTurn_move (hrun : s.disp.running = true) (h : refreshTurn s = .next t) : RefreshMove s t := by
  have hstep := (refreshTurn_of_running hrun).symm.trans h
  cases hpc : s.disp.pc <;> simp only [rfStep, hpc] at hstep
  case idle => cases hstep; exact .stays hpc
  case check => cases hstep; exact .checks hpc
  case load => rw [rfLoad_eq] at hstep; cases hstep; exact .samples hpc
  case selectDraw => cases hstep; exact .draws hpc
  case holdEnd => cases hstep; exact .endsHold hpc
  case exitDone => cases hstep; exact .exits hpc
  case lowerWait | bitDataWait | bitHighWait | bitLowWait | latchWait | holdWait =>
    exact refreshMove_of_delay hrun (by rw [hpc]; rfl) h
  all_goals
    cases hstep
    exact .writes (by rw [hpc]; rfl)

theorem refreshTurn_cases (h : refreshTurn s = .next t) :
    s.disp.running = true ∧ RefreshMove s t ∨ s.disp.running = false ∧ t = s := by
  by_cases hrun : s.disp.running = true
  · exact .inl ⟨hrun, refreshTurn_move hrun h⟩
  · rw [refreshTurn, if_neg hrun] at h
    cases h
    exact .inr ⟨Bool.eq_false_of_not_eq_true hrun, rfl⟩

/-! ## The stop test (R116) and the sample (R120) -/

theorem Disp.afterDelay_setStopReq (d : Disp) (b : Bool) (pc : RfPc) :
    ({ d with stopReq := b } : Disp).afterDelay pc = { d.afterDelay pc with stopReq := b } := by
  cases pc
  case bitLowWait => simp only [Disp.afterDelay]; split <;> rfl
  all_goals rfl

/-- The state with the stop request at `b`. -/
def State.setStopReq (b : Bool) (s : State) : State := { s with disp := { s.disp with stopReq := b } }

theorem rfHoldEnd_setStopReq (s : State) (b : Bool) : rfHoldEnd (s.setStopReq b) = (rfHoldEnd s).setStopReq b := by
  have hhalf : (s.setStopReq b).disp.half = s.disp.half := rfl
  rw [rfHoldEnd, rfHoldEnd, hhalf]
  cases s.disp.half <;> rfl

/-- Apart from the test, the same move is made whatever the stop request is. -/
theorem RefreshMove.setStopReq (h : RefreshMove s t) (hrun : s.disp.running = true) (hpc : s.disp.pc ≠ .check) (b : Bool) :
    refreshTurn (s.setStopReq b) = .next (t.setStopReq b) := by
  have hrun' : (s.setStopReq b).disp.running = true := hrun
  cases h with
  | checks h => exact absurd h hpc
  | stays h => rw [refreshTurn_of_running hrun']; simp only [rfStep, State.setStopReq, h]
  | samples h => exact refreshTurn_load hrun' h
  | writes hw => exact refreshTurn_write hrun' rfl hw
  | begins hdelay hwake => exact refreshTurn_begins hrun' rfl hdelay hwake
  | waits hdelay hwake hlt => exact refreshTurn_held hrun' rfl hdelay hwake hlt
  | wakes hdelay hwake hle =>
    rw [refreshTurn_over hrun' rfl hdelay hwake hle]
    simp only [State.setStopReq, Disp.afterDelay_setStopReq]
  | draws h => exact refreshTurn_draw hrun' h
  | endsHold h => exact (refreshTurn_holdEnd hrun' h).trans (congrArg _ (rfHoldEnd_setStopReq s b))
  | exits h => exact refreshTurn_exitDone hrun' h

/-- Settles O14. -/
theorem refreshTestsStop : Obligations.RefreshTestsStop := by
  refine fun s hrun => ⟨fun hpc hstop => ?_, fun hpc hstop => ?_, fun hpc b => ?_⟩
  · rw [refreshTurn_check hrun hpc, rfCheck, if_pos hstop]
    rfl
  · rw [refreshTurn_check hrun hpc, rfCheck, if_neg (by simp [hstop])]
  · obtain ⟨t, ht⟩ := refreshTurn_next s
    rw [ht]
    exact (refreshTurn_move hrun ht).setStopReq hrun hpc b

/-! ## The pins (R117, R118, R121, R123, R128) -/

theorem refreshTurn_eq_of (h : refreshTurn s = .next t) (hu : refreshTurn s = .next u) : t = u :=
  Host.Outcome.next.inj (h.symm.trans hu)

/-- Settles O15: the lines drive, so they take the level written. -/
theorem refreshControlLines : Obligations.RefreshControlLines := by
  intro s hs hrun t h
  obtain ⟨-, ⟨hclk, -⟩, ⟨hlatch, -⟩, ⟨hunits, -⟩, ⟨htens, -⟩⟩ := hs.disp.driven
  have hwrite {pc p v q} (hpc : s.disp.pc = pc) (hw : s.pinStep pc = some (p, v, q)) : t = (s.pinWrite p v).rfGo q :=
    refreshTurn_eq_of h (refreshTurn_write hrun hpc hw)
  refine ⟨?_, ?_, ?_, ?_, fun hpc => ?_, fun hpc => ⟨fun hwake => ?_, fun w hwake hlt => ?_, fun w hwake hle => ?_⟩, ?_⟩
  · rintro (hpc | hpc) <;> obtain rfl := hwrite hpc rfl <;> exact ⟨PinHandle.write_line _ _ hunits, rfl⟩
  · rintro (hpc | hpc) <;> obtain rfl := hwrite hpc rfl <;> exact ⟨PinHandle.write_line _ _ htens, rfl⟩
  · rintro (hpc | hpc) <;> obtain rfl := hwrite hpc rfl <;> exact ⟨PinHandle.write_line _ _ hclk, rfl⟩
  · rintro (hpc | hpc) <;> obtain rfl := hwrite hpc rfl <;> exact ⟨PinHandle.write_line _ _ hlatch, rfl⟩
  · obtain rfl := refreshTurn_eq_of h (refreshTurn_exitDone hrun hpc)
    exact ⟨rfl, rfl, rfl⟩
  · exact refreshTurn_eq_of h (refreshTurn_begins hrun hpc rfl hwake)
  · exact refreshTurn_eq_of h (refreshTurn_held hrun hpc rfl hwake hlt)
  · exact refreshTurn_eq_of h (refreshTurn_over hrun hpc rfl hwake hle)
  · obtain ⟨-, -, -, -, hmem, -⟩ := refreshTurn_frame h
    exact fun a => by rw [hmem]

/-- After the last delay of a bit comes the next bit down, or the latch (R122). -/
theorem Disp.afterDelay_bitLowWait (d : Disp) :
    d.bit.val = 0 ∧ (d.afterDelay .bitLowWait).pc = .latchRaise ∨
      d.bit.val = (d.afterDelay .bitLowWait).bit.val + 1 ∧ (d.afterDelay .bitLowWait).pc = .bitData := by
  simp only [Disp.afterDelay]
  split
  · next hb => exact .inl ⟨by rw [hb]; rfl, rfl⟩
  · next hb => exact .inr ⟨bit_pred hb, rfl⟩

theorem Disp.afterDelay_wake (d : Disp) (h : pc.isDelay = true) : (d.afterDelay pc).wake = none := by
  cases pc <;> cases h
  case bitLowWait => simp only [Disp.afterDelay]; split <;> rfl
  all_goals rfl

/-- Settles O17. -/
theorem refreshShiftsBits : Obligations.RefreshShiftsBits := by
  intro s hs hrun t h
  obtain ⟨⟨hdata, -⟩, ⟨hclk, -⟩, ⟨hlatch, -⟩, -⟩ := hs.disp.driven
  have hwrite {pc p v q} (hpc : s.disp.pc = pc) (hw : s.pinStep pc = some (p, v, q)) : t = (s.pinWrite p v).rfGo q :=
    refreshTurn_eq_of h (refreshTurn_write hrun hpc hw)
  refine ⟨fun hpc => ?_, fun hpc => ?_, fun hpc => ?_, fun hpc => ?_, fun hmem => ?_⟩
  · obtain rfl := hwrite hpc rfl; exact ⟨PinHandle.write_line _ _ hdata, rfl, rfl⟩
  · obtain rfl := hwrite hpc rfl; exact ⟨PinHandle.write_line _ _ hclk, rfl, rfl⟩
  · obtain rfl := hwrite hpc rfl; exact ⟨PinHandle.write_line _ _ hclk, rfl, rfl⟩
  · obtain rfl := hwrite hpc rfl; exact ⟨PinHandle.write_line _ _ hlatch, rfl, rfl⟩
  · have hdelay : s.disp.pc.isDelay = true ∧ s.disp.pc ≠ .holdWait :=
      (by decide : ∀ pc ∈ [RfPc.bitDataWait, .bitHighWait, .bitLowWait, .latchWait], pc.isDelay = true ∧ pc ≠ .holdWait) _ hmem
    have hns : s.disp.delayNs s.disp.pc = 100 := by
      unfold Disp.delayNs
      split
      · next hpc => exact absurd hpc hdelay.2
      · rfl
    refine ⟨fun hwake => ?_, fun w hwake hlt => ?_, fun w hwake hle => ?_⟩
    · rw [← hns]; exact refreshTurn_eq_of h (refreshTurn_begins hrun rfl hdelay.1 hwake)
    · exact refreshTurn_eq_of h (refreshTurn_held hrun rfl hdelay.1 hwake hlt)
    · obtain rfl := refreshTurn_eq_of h (refreshTurn_over hrun rfl hdelay.1 hwake hle)
      refine ⟨rfl, s.disp.afterDelay_wake hdelay.1, ?_, ?_, ?_, ?_⟩ <;> intro hpc <;> simp only [hpc]
      · exact ⟨rfl, rfl⟩
      · exact ⟨rfl, rfl⟩
      · exact s.disp.afterDelay_bitLowWait
      · rfl

/-! ## Selection and hold (R125 to R127, R131) -/

theorem exists_drawFrom {lo hi n : Nat} (hlo : lo ≤ n) (hhi : n ≤ hi) : ∃ raw, drawFrom lo hi raw = n :=
  ⟨n - lo, by rw [drawFrom, Nat.mod_eq_of_lt (by omega)]; omega⟩

/-- Settles O18: what a digit shows and how long its hold can be is what the invariant says after the step. -/
theorem refreshHoldsDigit : Obligations.RefreshHoldsDigit := by
  refine ⟨fun s hs hrun t h => ?_, fun n => exists_drawFrom⟩
  have hat := (refreshTurn_keeps_dispInv hs.disp h).atStep
  refine ⟨fun hpc => ?_, fun hpc => ?_, fun hpc hwake => ?_, fun hpc hend => ?_, fun hpc hhalf => ?_, fun hpc hhalf => ?_⟩
  · obtain rfl := refreshTurn_eq_of h (refreshTurn_write hrun hpc rfl)
    exact ⟨hat.2, rfl, rfl⟩
  · obtain rfl := refreshTurn_eq_of h (refreshTurn_draw hrun hpc)
    obtain ⟨-, -, hlow, hhigh⟩ := hat
    exact ⟨rfl, hlow, hhigh, rfl, rfl⟩
  · obtain rfl := refreshTurn_eq_of h (refreshTurn_begins hrun hpc rfl hwake)
    rfl
  · by_contra hnot
    have hsame : t.disp.pc = s.disp.pc := by
      cases hwake : s.disp.wake with
      | none => rw [refreshTurn_eq_of h (refreshTurn_begins hrun hpc rfl hwake)]
      | some w =>
        have hlt : s.tau < w := Nat.lt_of_not_le fun hle => hnot ⟨w, hwake, hle⟩
        rw [refreshTurn_eq_of h (refreshTurn_held hrun hpc rfl hwake hlt)]
    rw [hsame, hpc] at hend
    cases hend
  · obtain rfl := refreshTurn_eq_of h (refreshTurn_holdEnd hrun hpc)
    simp [rfHoldEnd, hhalf]
  · obtain rfl := refreshTurn_eq_of h (refreshTurn_holdEnd hrun hpc)
    simp [rfHoldEnd, hhalf]

theorem State.shown_of_on {h : Half} (hon : (s.pins.get (selPin h)).line = selOn s.cfg) : s.shown h = some s.ext.q := if_pos hon

theorem State.shown_of_off {h : Half} (hoff : (s.pins.get (selPin h)).line = selOff s.cfg) : s.shown h = none :=
  if_neg (hoff ▸ selOff_ne_selOn s.cfg)

theorem State.DispInv.hold (hs : s.DispInv) (hphase : s.disp.pc.phase = .rfHold) : s.latched ∧ s.showsHalf := by
  have hat := hs.atStep
  unfold State.atRefreshStep at hat
  cases hpc : s.disp.pc <;> simp only [hpc] at hphase hat <;> cases hphase
  case holdWait | holdEnd =>
    obtain ⟨hl, hshows, -, -⟩ := hat
    exact ⟨hl, hshows⟩

/-- Settles O21. -/
theorem holdShowsPattern : Obligations.HoldShowsPattern := by
  intro s hs hphase
  obtain ⟨⟨-, -, hq, -⟩, hshows⟩ := hs.disp.hold hphase
  unfold State.showsHalf at hshows
  refine ⟨fun hhalf => ?_, fun hhalf => ?_⟩ <;> simp only [hhalf] at hshows
  · exact ⟨(State.shown_of_on (h := .units) hshows.1).trans (congrArg some hq), State.shown_of_off (h := .tens) hshows.2⟩
  · exact ⟨(State.shown_of_on (h := .tens) hshows.1).trans (congrArg some hq), State.shown_of_off (h := .units) hshows.2⟩

end Sys2Proof.Machine
end

section
/-! What each agent makes of the display registers and pins (40_display.md R114, R120, R122, R130, R132; 20_memory.md R75). -/

namespace Sys2Proof.Machine

variable {s t u : State} {a b : Activity} {p q : Pin} {v : Level}

/-! ## HOST and ENV -/

/-- The moves of HOST and ENV, those of REFRESH apart. -/
inductive OtherMove (s : State) : State → Prop
  | none : OtherMove s s
  | host {a b : Activity} {u : State} (h : HostMove s a b u) : OtherMove s u
  | env (e : EnvAct) : OtherMove s (envTurn e s)

theorem step_otherMove (hc : s.choice.agent ≠ .refresh) (h : step s = .next t) :
    ∃ p u, SameEngines s p ∧ OtherMove p u ∧ SameEngines u t := by
  obtain ⟨v, hv, rfl⟩ := step_eq_next h
  have hspend : SameEngines v v.spend := ⟨rfl, rfl, rfl, rfl, rfl, rfl, rfl⟩
  cases ha : s.choice.agent with
  | refresh => exact absurd ha hc
  | host k =>
    rw [ha] at hv
    obtain rfl | ⟨p, th, ⟨_, hsame, -, -, -⟩, -, ⟨u, b, f, hmove, hu, -, -, -⟩⟩ := hostTurn_operates ha hv
    · exact ⟨v, v, .refl v, .none, hspend⟩
    · exact ⟨p, u, hsame, .host hmove, hu.trans hspend⟩
  | env e => rw [ha] at hv; cases hv; exact ⟨s, _, .refl s, .env e, hspend⟩
  | call k c => rw [ha] at hv; cases hv; exact ⟨s, s, .refl s, .none, (callArrives_sameEngines k c s).trans hspend⟩

theorem step_refreshTurn (hc : s.choice.agent = .refresh) (h : step s = .next t) :
    ∃ u, refreshTurn s = .next u ∧ t = u.spend := by
  obtain ⟨u, hu, ht⟩ := step_eq_next h
  rw [hc] at hu
  exact ⟨u, hu, ht⟩

theorem HostMove.pat (h : HostMove s a b u) : u.disp.pat = s.disp.pat := by
  cases h with
  | swGoesOn | swEnds => rw [swTurn_disp]
  | ecGoesOn | ecEnds => rw [ecTurn_disp]
  | attachFails e => rw [s.goIdle_disp e]
  | detaches e => cases e <;> rfl
  | _ => rfl

theorem OtherMove.pat (h : OtherMove s u) : u.disp.pat = s.disp.pat := by
  cases h with
  | none => rfl
  | host h => exact h.pat
  | env e => rw [envTurn_update]

/-- While the task runs and its stop is requested HOST can change nothing of the display: a start, an attach and a detach are refused,
and a further stop asks for what is asked. -/
theorem HostMove.disp_of_stopping (h : HostMove s a b u) (hat : s.disp.attached = true) (hrun : s.disp.running = true)
    (hstop : s.disp.stopReq = true) : u.disp = s.disp := by
  cases h with
  | startsTask _ hnot => rw [hrun] at hnot; cases hnot
  | asksStop =>
    show { s.disp with stopReq := true } = s.disp
    rw [← hstop]
  | swGoesOn | swEnds => exact swTurn_disp s
  | ecGoesOn | ecEnds => exact ecTurn_disp s
  | attachesDisp hnot => rw [hat] at hnot; cases hnot
  | attachFails e => exact s.goIdle_disp e
  | detaches e hbusy =>
    cases e with
    | disp => simp [State.busy, hrun] at hbusy
    | sw | echo | pwm => rfl
  | _ => rfl

theorem OtherMove.disp_of_stopping (h : OtherMove s u) (hat : s.disp.attached = true) (hrun : s.disp.running = true)
    (hstop : s.disp.stopReq = true) : u.disp = s.disp := by
  cases h with
  | none => rfl
  | host h => exact h.disp_of_stopping hat hrun hstop
  | env e => rw [envTurn_update]

/-! ## The display pins -/

/-- The five display pins are the same. -/
def Pins.SameDisplay (ps qs : Pins) : Prop :=
  qs.data = ps.data ∧ qs.clk = ps.clk ∧ qs.latch = ps.latch ∧ qs.selUnits = ps.selUnits ∧ qs.selTens = ps.selTens

theorem Pins.SameDisplay.refl (ps : Pins) : ps.SameDisplay ps := ⟨rfl, rfl, rfl, rfl, rfl⟩

/-- HOST moves a display pin by attaching the display alone. -/
theorem HostMove.displayPins (h : HostMove s a b u) :
    s.pins.SameDisplay u.pins ∨ s.disp.attached = false ∧ u = attachDisp s := by
  cases h with
  | attachesDisp hat => exact .inr ⟨hat, rfl⟩
  | swGoesOn | swEnds =>
    obtain ⟨x, hpins⟩ := swTurn_pins s
    rw [hpins]
    exact .inl (.refl s.pins)
  | ecGoesOn | ecEnds =>
    obtain ⟨x, hpins⟩ := ecTurn_pins s
    rw [hpins]
    exact .inl (.refl s.pins)
  | attachFails e => rw [s.goIdle_pins e]; exact .inl (.refl s.pins)
  | detaches e => cases e <;> exact .inl (.refl s.pins)
  | _ => exact .inl (.refl s.pins)

theorem envTurn_displayPins (e : EnvAct) (hd : s.pins.DisplayDriven) : s.pins.SameDisplay (envTurn e s).pins := by
  obtain ⟨hdata, hclk, hlatch, hunits, htens⟩ := hd
  exact ⟨envTurn_output (q := .data) hdata.1, envTurn_output (q := .clk) hclk.1, envTurn_output (q := .latch) hlatch.1,
    envTurn_output (q := .selUnits) hunits.1, envTurn_output (q := .selTens) htens.1⟩

/-- A step of HOST or ENV moves a display pin by attaching the display alone, and then it sets the clock and the latch low. -/
theorem step_displayPins (hs : s.DispInv) (hc : s.choice.agent ≠ .refresh) (h : step s = .next t) :
    s.pins.SameDisplay t.pins ∨ s.disp.attached = false ∧ t.pins.clk.line = false ∧ t.pins.latch.line = false := by
  obtain ⟨p, u, hp, hmove, hu⟩ := step_otherMove hc h
  rw [hu.pins, ← hp.pins, ← hp.disp]
  cases hmove with
  | none => exact .inl (.refl p.pins)
  | host h => exact h.displayPins.imp_right fun ⟨hat, heq⟩ => ⟨hat, by rw [heq]; exact ⟨rfl, rfl⟩⟩
  | env e => exact .inl (envTurn_displayPins e (hs.congr hp).driven)

/-- Settles O22: a task that is not running has no step, and an attached display is not attached again. -/
theorem noPinActivityWhenStopped : Obligations.NoPinActivityWhenStopped := by
  intro s t hs hat hrun h
  by_cases hc : s.choice.agent = .refresh
  · obtain ⟨u, hu, rfl⟩ := step_refreshTurn hc h
    obtain ⟨hnot, -⟩ | ⟨-, rfl⟩ := refreshTurn_cases hu
    · rw [hrun] at hnot; cases hnot
    · exact Pins.SameDisplay.refl u.pins
  · obtain hsame | ⟨hnot, -⟩ := step_displayPins hs.disp hc h
    · exact hsame
    · rw [hat] at hnot; cases hnot

/-! ## The sample (R120) -/

theorem Disp.afterDelay_pat (d : Disp) (pc : RfPc) : (d.afterDelay pc).pat = d.pat := by
  cases pc
  case bitLowWait => simp only [Disp.afterDelay]; split <;> rfl
  all_goals rfl

theorem RefreshMove.pat (h : RefreshMove s u) (hpc : s.disp.pc ≠ .load) : u.disp.pat = s.disp.pat := by
  cases h with
  | samples h => exact absurd h hpc
  | checks => unfold rfCheck; split <;> rfl
  | wakes => exact s.disp.afterDelay_pat _
  | endsHold => unfold rfHoldEnd; split <;> rfl
  | _ => rfl

/-- Settles O16. -/
theorem refreshSamplesDigit : Obligations.RefreshSamplesDigit := by
  refine ⟨fun s hrun hpc => ?_, fun s t h hpat => ?_⟩
  · rw [refreshTurn_load hrun hpc]
    cases s.disp.half <;> rfl
  · by_cases hc : s.choice.agent = .refresh
    · refine ⟨hc, ?_⟩
      by_contra hpc
      obtain ⟨u, hu, rfl⟩ := step_refreshTurn hc h
      obtain ⟨-, hmove⟩ | ⟨-, rfl⟩ := refreshTurn_cases hu
      · exact hpat (hmove.pat hpc)
      · exact hpat rfl
    · obtain ⟨p, u, hp, hmove, hu⟩ := step_otherMove hc h
      rw [hu.disp, hmove.pat, hp.disp] at hpat
      exact absurd rfl hpat

/-! ## Clock and latch (R122, R130) -/

/-- A line that a write raises is the line of the pin written, and the level is high. -/
theorem pinWrite_raises (hlow : (s.pins.get q).line = false) (hhigh : ((s.pinWrite p v).pins.get q).line = true) :
    p = q ∧ v = true := by
  by_cases hpq : q = p
  · subst hpq
    simp only [State.pinWrite_pins, Pins.get_set_same, PinHandle.write] at hhigh
    split at hhigh
    · exact ⟨rfl, hhigh⟩
    · rw [hlow] at hhigh; cases hhigh
  · rw [State.pinWrite_pins, Pins.get_set_ne _ _ _ _ hpq, hlow] at hhigh
    cases hhigh

/-- The steps that can raise the clock and the latch. -/
theorem pinStep_raises {pc r : RfPc} (h : s.pinStep pc = some (q, true, r)) :
    (q = .clk → pc = .bitClkHigh) ∧ (q = .latch → pc = .latchRaise) := by
  cases pc
  case bitClkHigh | latchRaise => cases h; decide
  case deselUnits | deselTens | exitUnits | exitTens | bitData =>
    obtain ⟨rfl, -⟩ := Prod.mk.inj (Option.some.inj h)
    decide
  case selectOn =>
    obtain ⟨rfl, -⟩ := Prod.mk.inj (Option.some.inj h)
    cases s.disp.half <;> decide
  all_goals cases h

/-- A line rises by a step of the loop that writes a 1 to its pin. -/
theorem RefreshMove.raises (h : RefreshMove s u) (hlow : (s.pins.get q).line = false) (hhigh : (u.pins.get q).line = true) :
    ∃ r, s.pinStep s.disp.pc = some (q, true, r) ∧ u = (s.pinWrite q true).rfGo r := by
  have hmoved : u.pins ≠ s.pins := fun heq => by rw [heq, hlow] at hhigh; cases hhigh
  cases h with
  | writes hw =>
    obtain ⟨rfl, rfl⟩ := pinWrite_raises hlow hhigh
    exact ⟨_, hw, rfl⟩
  | checks => exact absurd (rfCheck_pins s) hmoved
  | endsHold => exact absurd (rfHoldEnd_pins s) hmoved
  | _ => exact absurd rfl hmoved

/-- A step by which the clock or the latch rises is one of the running task. -/
theorem step_raises (hs : s.DispInv) (h : step s = .next t) (hq : q = .clk ∨ q = .latch) (hlow : (s.pins.get q).line = false)
    (hhigh : (t.pins.get q).line = true) :
    ∃ r, s.pinStep s.disp.pc = some (q, true, r) ∧ t = ((s.pinWrite q true).rfGo r).spend := by
  by_cases hc : s.choice.agent = .refresh
  · obtain ⟨u, hu, rfl⟩ := step_refreshTurn hc h
    obtain ⟨-, hmove⟩ | ⟨-, rfl⟩ := refreshTurn_cases hu
    · obtain ⟨r, hr, rfl⟩ := hmove.raises hlow hhigh
      exact ⟨r, hr, rfl⟩
    · exact absurd (hlow.symm.trans hhigh) (by decide)
  · have hstill : (t.pins.get q).line = false := by
      obtain ⟨-, hclk, hlatch, -⟩ | ⟨-, hclk, hlatch⟩ := step_displayPins hs hc h <;> obtain rfl | rfl := hq
      · exact (congrArg PinHandle.line hclk).trans hlow
      · exact (congrArg PinHandle.line hlatch).trans hlow
      · exact hclk
      · exact hlatch
    exact absurd (hstill.symm.trans hhigh) (by decide)

/-- Settles O20: the step that raises the line is known, and the invariant says what holds there. -/
theorem clockAndLatchDiscipline : Obligations.ClockAndLatchDiscipline := by
  intro s t hs h
  have hat := hs.disp.atStep
  refine ⟨fun hlow hhigh => ?_, fun hlow hhigh => ?_⟩
  · obtain ⟨r, hr, rfl⟩ := step_raises (q := .clk) hs.disp h (.inl rfl) hlow hhigh
    simp only [State.atRefreshStep, (pinStep_raises hr).1 rfl] at hat
    obtain ⟨⟨hdark, hlatch, -⟩, -⟩ := hat
    exact ⟨hdark, hlatch⟩
  · obtain ⟨r, hr, rfl⟩ := step_raises (q := .latch) hs.disp h (.inr rfl) hlow hhigh
    simp only [State.atRefreshStep, (pinStep_raises hr).2 rfl] at hat
    obtain ⟨⟨-, -, hclk, hpulses, -⟩, -⟩ := hat
    exact ⟨hclk, hpulses⟩

end Sys2Proof.Machine
end

section
/-! How near a requested stop is (40_display.md R132). -/

namespace Sys2Proof.Machine

variable {s t u : State}

theorem State.refreshHeld_of_none (h : s.disp.wake = none) : s.refreshHeld = false := by
  simp [State.refreshHeld, State.heldBy, h]

theorem State.refreshHeld_of_some {w : Nat} (h : s.disp.wake = some w) : s.refreshHeld = decide (s.tau < w) := by
  simp [State.refreshHeld, State.heldBy, h]

/-! ## One turn of the task -/

/-- Beginning a delay takes one of its two turns. -/
theorem refreshLeft_begins {d : Disp} (w : Nat) (hdelay : d.pc.isDelay = true) (hwake : d.wake = none) :
    refreshLeft { d with wake := some w } + 1 = refreshLeft d := by
  cases hpc : d.pc <;> rw [hpc] at hdelay <;> cases hdelay
  all_goals
    simp only [refreshLeft, halfLeft, hpc, hwake, delayLeft]
    omega

/-- Ending a delay takes the other. -/
theorem refreshLeft_afterDelay {d : Disp} {w : Nat} (hdelay : d.pc.isDelay = true) (hwake : d.wake = some w) :
    refreshLeft (d.afterDelay d.pc) + 1 = refreshLeft d := by
  cases hpc : d.pc <;> rw [hpc] at hdelay <;> cases hdelay
  case bitLowWait =>
    by_cases hb : d.bit = 0
    · have hzero : d.bit.val = 0 := by rw [hb]; rfl
      simp only [refreshLeft, halfLeft, hpc, hwake, delayLeft, Disp.afterDelay, if_pos hb]
      omega
    · have hdown := bit_pred hb
      simp only [refreshLeft, halfLeft, hpc, hwake, delayLeft, Disp.afterDelay, if_neg hb]
      omega
  all_goals
    simp only [refreshLeft, halfLeft, hpc, hwake, delayLeft, Disp.afterDelay]
    omega

theorem isDelay_of_pinStep {pc q : RfPc} {p : Pin} {v : Level} (h : s.pinStep pc = some (p, v, q)) : pc.isDelay = false := by
  cases pc <;> cases h <;> rfl

/-- A write takes one turn; no delay is in progress before the step it goes to. -/
theorem refreshLeft_writes {p : Pin} {v : Level} {q : RfPc} (hw : s.pinStep s.disp.pc = some (p, v, q)) (hwake : s.disp.wake = none) :
    refreshLeft { s.disp with pc := q } + 1 = refreshLeft s.disp := by
  cases hpc : s.disp.pc <;> rw [hpc] at hw <;> cases hw
  case exitUnits | exitTens | exitClk | exitLatch => simp only [refreshLeft, hpc]
  all_goals
    simp only [refreshLeft, halfLeft, hpc, hwake, delayLeft]
    omega

/-- Once the stop is requested a turn is held by a delay, or it brings the end one turn nearer. -/
theorem RefreshMove.left (h : RefreshMove s u) (hs : s.DispInv) (hrun : s.disp.running = true) (hstop : s.disp.stopReq = true) :
    s.refreshHeld = true ∧ u = s ∨ s.refreshHeld = false ∧ refreshLeft u.disp + 1 = refreshLeft s.disp := by
  have hfree (hpc : s.disp.pc.isDelay = false) : s.refreshHeld = false := State.refreshHeld_of_none (hs.wake_none hpc)
  cases h with
  | stays hpc => exact absurd hpc (hs.running.mp hrun)
  | checks hpc =>
    refine .inr ⟨hfree (hpc ▸ rfl), ?_⟩
    simp [rfCheck, hstop, refreshLeft, hpc]
  | samples hpc =>
    refine .inr ⟨hfree (hpc ▸ rfl), ?_⟩
    simp [refreshLeft, halfLeft, hpc]
    omega
  | writes hw =>
    have hpc := isDelay_of_pinStep hw
    exact .inr ⟨hfree hpc, refreshLeft_writes hw (hs.wake_none hpc)⟩
  | begins hdelay hwake => exact .inr ⟨State.refreshHeld_of_none hwake, refreshLeft_begins _ hdelay hwake⟩
  | waits hdelay hwake hlt => exact .inl ⟨by simp [State.refreshHeld_of_some hwake, hlt], rfl⟩
  | wakes hdelay hwake hle => exact .inr ⟨by simp [State.refreshHeld_of_some hwake, hle], refreshLeft_afterDelay hdelay hwake⟩
  | draws hpc =>
    refine .inr ⟨hfree (hpc ▸ rfl), ?_⟩
    simp [rfDraw, refreshLeft, halfLeft, hpc, hs.wake_none, RfPc.isDelay, delayLeft]
    omega
  | endsHold hpc =>
    refine .inr ⟨hfree (hpc ▸ rfl), ?_⟩
    cases hhalf : s.disp.half <;> simp [rfHoldEnd, refreshLeft, halfLeft, hpc, hhalf]
  | exits hpc =>
    refine .inr ⟨hfree (hpc ▸ rfl), ?_⟩
    simp [rfExitDone, refreshLeft, hpc]

/-- Settles O23. -/
theorem stopComesNearer : Obligations.StopComesNearer := by
  intro s t hs hrun hstop h
  by_cases hc : s.choice.agent = .refresh
  · obtain ⟨u, hu, rfl⟩ := step_refreshTurn hc h
    obtain ⟨-, hreq, -⟩ := refreshTurn_task hu
    have hmoves : s.refreshMoves = !s.refreshHeld := by simp [State.refreshMoves, hc, hrun]
    rw [hmoves]
    obtain ⟨hheld, rfl⟩ | ⟨hheld, hleft⟩ := (refreshTurn_move hrun hu).left hs hrun hstop
    · exact ⟨by simp [hheld], fun _ => rfl, fun _ => hstop⟩
    · exact ⟨fun _ => hleft, by simp [hheld], fun _ => hreq.trans hstop⟩
  · obtain ⟨p, u, hp, hmove, hu⟩ := step_otherMove hc h
    have hsame : t.disp = s.disp := by
      rw [← hp.disp] at hrun hstop ⊢
      exact hu.disp.trans (hmove.disp_of_stopping ((hs.congr hp).exists_ hrun) hrun hstop)
    exact ⟨by simp [State.refreshMoves, hc], fun _ => hsame, fun _ => hsame ▸ hstop⟩

/-! ## A whole run -/

theorem halfLeft_le (d : Disp) : halfLeft d ≤ 87 := by
  have hbit : d.bit.val < 8 := d.bit.isLt
  have hdelay : delayLeft d.wake ≤ 2 := by cases d.wake <;> simp [delayLeft]
  unfold halfLeft
  split <;> omega

theorem refreshLeft_le (d : Disp) : refreshLeft d ≤ 180 := by
  have hhalf := halfLeft_le d
  unfold refreshLeft
  cases d.half <;> dsimp only <;> split <;> omega

theorem refreshLeft_pos {d : Disp} (hpc : d.pc ≠ .idle) : 0 < refreshLeft d := by
  unfold refreshLeft
  split
  · next hidle => exact absurd hidle hpc
  all_goals omega

theorem coreRun_one (M : Host.Core) {s t : M.State} (h : M.run 1 s = .next t) : M.step s = .next t := by
  simp only [Host.Core.run] at h
  cases hst : M.step s <;> rw [hst] at h
  case next u => exact h
  all_goals cases h

/-- Settles O24, by induction on the run: a free turn is one turn nearer. -/
theorem stopEndsWithinOneCycle : Obligations.StopEndsWithinOneCycle := by
  intro n
  induction n with
  | zero =>
    intro s hs hstop hruns
    obtain ⟨u, hu, hrun⟩ := hruns 0 le_rfl
    cases hu
    exact ⟨refreshLeft_pos (hs.running.mp hrun), refreshLeft_le _⟩
  | succ n ih =>
    intro s hs hstop hruns
    refine ⟨?_, refreshLeft_le _⟩
    obtain ⟨s', hs', hrun⟩ := hruns 0 (Nat.zero_le _)
    cases hs'
    obtain ⟨t, ht, hrunt⟩ := hruns 1 (by omega)
    have hstep : step s = .next t := coreRun_one Sys2Proof.core ht
    obtain ⟨hnear, hstill, hreq⟩ := stopComesNearer s t hs hrun hstop hstep
    have hrest := (ih t (step_keeps_dispInv hstep hs) (hreq hrunt) fun m hm => by
      rw [← run_succ hstep]; exact hruns (m + 1) (by omega)).1
    simp only [refreshTurnsIn, hstep]
    cases hmoves : s.refreshMoves with
    | true => have := hnear hmoves; simp only [if_true]; omega
    | false => rw [hstill hmoves] at hrest; simpa using hrest

end Sys2Proof.Machine
end

section
/-! The bounded poll, the operation `SW_MEASURE` and its steps (41_singlewire.md R140 to R156). -/

namespace Sys2Proof.Machine

variable {s : State}

/-! ## The bounded poll -/

section
variable {level line : Level} {T now : Nat} {w : WaitLocals}

theorem waitTurn_seen (hl : w.l = level) : waitTurn level T line now w .c = .done (now - w.t0) { w with t := now } := if_pos hl

theorem waitTurn_late (hl : w.l ≠ level) (ht : T < now - w.t0) : waitTurn level T line now w .c = .timeout { w with t := now } :=
  (if_neg hl).trans (if_pos ht)

theorem waitTurn_again (hl : w.l ≠ level) (ht : now - w.t0 ≤ T) :
    waitTurn level T line now w .c = .goesOn .b { w with t := now } :=
  (if_neg hl).trans (if_neg ht.not_gt)

end

/-- Settles O25: the outcome of step C is decided by the level first and then by the clock. -/
theorem pollOutcomes : Obligations.PollOutcomes := by
  intro level line T now w sub
  refine ⟨fun d w' => ⟨waitTurn_done, ?_⟩, fun w' => ⟨waitTurn_timeout, ?_⟩, fun sub' w' => ?_⟩
  · rintro ⟨rfl, hl, rfl, rfl⟩
    exact waitTurn_seen hl
  · rintro ⟨rfl, hl, ht, rfl⟩
    exact waitTurn_late hl ht
  · cases sub with
    | a | b => simp [waitTurn, eq_comm]
    | c =>
      by_cases hl : w.l = level
      · simp [waitTurn_seen, hl]
      · obtain ht | ht := Nat.lt_or_ge T (now - w.t0)
        · simp [waitTurn_late hl ht, ht.not_ge]
        · simp [waitTurn_again hl ht, hl, ht, eq_comm]

/-! ## The start -/

theorem exec_swMeasure (hat : s.sw.attached = true) (hpc : s.sw.pc = .idle) :
    exec .swMeasure s = .next (((s.pinDir .sw .output).swGo .startLow).enter .swMeasure) := by
  simp [exec, execSwMeasure, hat, hpc]

/-- The external register does not see a pin other than the clock and the latch turn. -/
theorem State.pinDir_other {p : Pin} (hc : p ≠ .clk) (hl : p ≠ .latch) (d : Dir) :
    s.pinDir p d = { s with pins := s.pins.set p ((s.pins.get p).turn d) } := by
  rw [State.pinDir, State.setPins, Ext.react_set_other _ _ _ _ hc hl]

/-- Settles O27. -/
theorem swMeasureStarts : Obligations.SwMeasureStarts := by
  intro s hat hpc
  have hexec := exec_swMeasure hat hpc
  rw [State.pinDir_other (by decide) (by decide)] at hexec
  exact ⟨_, hexec, rfl, rfl, rfl, fun _ => rfl, callerEnters_enter rfl, rfl⟩

/-! ## The turns outside of the waits -/

theorem swTurn_startLow (h : s.sw.pc = .startLow) : swTurn s = (s.pinWrite .sw false).swGo .startDelay := by rw [swTurn, h]

theorem swTurn_startDelay (h : s.sw.pc = .startDelay) : swTurn s = swStartDelay s := by rw [swTurn, h]

theorem swTurn_relHigh (h : s.sw.pc = .relHigh) : swTurn s = (s.pinWrite .sw true).swGo .relIn := by rw [swTurn, h]

theorem swTurn_relIn (h : s.sw.pc = .relIn) : swTurn s = (s.pinDir .sw .input).swGo (.wait .ackLow .a) := by rw [swTurn, h]

theorem swTurn_check (h : s.sw.pc = .check) : swTurn s = swCheck s := by rw [swTurn, h]

theorem swStartDelay_begins (h : s.sw.wake = none) :
    swStartDelay s = { s with sw := { s.sw with wake := some (s.tau + 18000000) } } := by
  rw [swStartDelay, h]; rfl

theorem swStartDelay_over (hpc : s.sw.pc = .startDelay) (h : (swStartDelay s).sw.pc = .relHigh) :
    ∃ w, s.sw.wake = some w ∧ w ≤ s.tau := by
  unfold swStartDelay at h
  split at h
  · exact absurd (hpc.symm.trans h) (by decide)
  · exact absurd (hpc.symm.trans h) (by decide)
  · next hd => exact delayTurn_over hd

/-- A level written to the line of the sensor while it is an output. -/
theorem pinWrite_sw (hd : s.pins.sw.dir = .output) (v : Level) : (s.pinWrite .sw v).pins.sw = ⟨.output, v, v⟩ :=
  (PinHandle.mk.injEq ..).mpr ⟨hd, rfl, PinHandle.write_line _ _ hd⟩

/-- Settles O28: the invariant says that the line is an output until it is released. -/
theorem swStartSignal : Obligations.SwStartSignal := by
  intro s hs
  have hat := hs.sw.atStep
  unfold State.atSwStep at hat
  refine ⟨fun hpc => ?_, fun hpc hwake => ?_, fun hpc hnext => ?_, fun hpc => ?_, fun hpc => ?_⟩
  · rw [hpc] at hat
    rw [swTurn_startLow hpc]
    exact ⟨pinWrite_sw hat false, rfl⟩
  · rw [swTurn_startDelay hpc, swStartDelay_begins hwake]
    exact ⟨rfl, rfl⟩
  · rw [swTurn_startDelay hpc] at hnext
    exact swStartDelay_over hpc hnext
  · rw [hpc] at hat
    rw [swTurn_relHigh hpc]
    exact ⟨pinWrite_sw hat.1 true, rfl⟩
  · rw [hpc] at hat
    rw [swTurn_relIn hpc]
    exact ⟨rfl, hat.2, rfl⟩

/-! ## The waits -/

section
variable {st : SwWait} (hpc : s.sw.pc = .wait st .c)
include hpc

theorem swTurn_seen (hl : s.sw.wait.l = st.level) :
    swTurn s = swDone st (s.nowUs - s.sw.wait.t0) { s with sw := { s.sw with wait := { s.sw.wait with t := s.nowUs } } } := by
  rw [swTurn, hpc]
  simp only [swWaitTurn, waitTurn_seen hl]

theorem swTurn_late (hl : s.sw.wait.l ≠ st.level) (ht : st.timeoutUs s.cfg < s.nowUs - s.sw.wait.t0) :
    swTurn s = swAbort { s with sw := { s.sw with wait := { s.sw.wait with t := s.nowUs } } } := by
  rw [swTurn, hpc]
  simp only [swWaitTurn, waitTurn_late hl ht]

theorem swTurn_again (hl : s.sw.wait.l ≠ st.level) (ht : s.nowUs - s.sw.wait.t0 ≤ st.timeoutUs s.cfg) :
    swTurn s = { s with sw := { s.sw with wait := { s.sw.wait with t := s.nowUs }, pc := .wait st .b } } := by
  rw [swTurn, hpc]
  simp only [swWaitTurn, waitTurn_again hl ht]

end

theorem step_of_runs_swMeasure (h : s.runs .swMeasure) : step s = .next (swTurn s).spend := by
  obtain ⟨hc, th, hk, ha⟩ := h
  exact step_swTurn hc hk ha

/-- Settles O29. -/
theorem swTimeoutAborts : Obligations.SwTimeoutAborts := by
  refine ⟨fun c => ⟨⟨rfl, rfl⟩, ⟨rfl, rfl⟩, ⟨rfl, rfl⟩, ⟨rfl, rfl⟩, ⟨rfl, rfl⟩, ⟨rfl, rfl⟩⟩, ⟨rfl, rfl⟩, ?_⟩
  intro s st hs hruns hpc hl
  have hstep := step_of_runs_swMeasure hruns
  refine ⟨fun ht => ?_, fun ht => ?_⟩
  · have hat := hs.sw.atStep
    simp only [State.atSwStep, hpc] at hat
    obtain ⟨hin, hhigh, -⟩ := hat
    rw [swTurn_late hpc hl ht] at hstep
    exact ⟨_, hstep, callerReturns_giveBack rfl, rfl, rfl, hin, hhigh, rfl⟩
  · rw [swTurn_again hpc hl ht] at hstep
    exact ⟨_, hstep, rfl, rfl, rfl⟩

/-- While the top bit is clear, a bit pushed doubles the frame and adds itself (41_singlewire.md R150). -/
theorem pushBit_toNat {frame : BitVec 40} (b : Bool) (h : frame.toNat < 2 ^ 39) :
    (pushBit frame b).toNat = 2 * frame.toNat + (if b then 1 else 0) := by
  have hshift : (frame <<< 1).toNat = frame.toNat <<< 1 := by
    rw [BitVec.toNat_shiftLeft, Nat.mod_eq_of_lt (by rw [Nat.shiftLeft_eq]; omega)]
  have hbit : (if b then 1 else 0 : BitVec 40).toNat = if b then 1 else 0 := by cases b <;> rfl
  rw [pushBit, BitVec.toNat_or, hshift, hbit, ← Nat.shiftLeft_add_eq_or_of_lt (by cases b <;> decide), Nat.shiftLeft_eq, Nat.mul_comm]

/-- Settles O30: the invariant says that a frame of `k` bits has room for one more. -/
theorem swSlotDecidesBit : Obligations.SwSlotDecidesBit := by
  intro s hs hpc hl
  have hat := hs.sw.atStep
  simp only [State.atSwStep, hpc] at hat
  obtain ⟨-, -, ⟨hk, hframe⟩, -⟩ := hat
  have hroom : s.sw.frame.toNat < 2 ^ 39 := hframe.trans_le (Nat.pow_le_pow_right Nat.two_pos (Nat.le_of_lt_succ hk))
  rw [swTurn_seen hpc hl]
  refine ⟨rfl, rfl, ?_, if_congr Nat.succ_inj rfl rfl, rfl⟩
  exact (pushBit_toNat _ hroom).trans (by rw [bitOf]; simp only [decide_eq_true_eq])

/-! ## The verdict -/

theorem readingOf_append (hh hl th tl ck : Byte) : readingOf (hh ++ hl ++ th ++ tl ++ ck) = ⟨hh, hl, th, tl, ck, th⟩ := by
  simp (disch := omega) only [readingOf, BitVec.extractLsb'_append_eq_of_le, BitVec.extractLsb'_append_eq_of_add_le]
  simp

/-- The verdict in numbers: the sum of the four fields modulo 256 against the fifth. -/
theorem checksumStatus_eq (r : Reading) : checksumStatus r =
    if (r.humidityHigh.toNat + r.humidityLow.toNat + r.temperatureHigh.toNat + r.temperatureLow.toNat) % 256 = r.checksum.toNat
    then .ok else .checksumError := by
  refine if_congr ?_ rfl rfl
  simp only [checksumOf, ← BitVec.toNat_inj, BitVec.toNat_add, Nat.mod_add_mod]

/-- Settles O31. -/
theorem swVerdict : Obligations.SwVerdict := by
  intro s hh hl th tl ck hruns hpc hframe
  have hstep := step_of_runs_swMeasure hruns
  rw [swTurn_check hpc, swCheck, hframe, readingOf_append, checksumStatus_eq] at hstep
  exact ⟨_, hstep, rfl, callerReturns_giveBack rfl, rfl⟩

/-! ## The invariants -/

/-- Settles O54. -/
theorem measuringInvsKept : Obligations.MeasuringInvsKept :=
  fun _ _ hsw hecho h => ⟨step_keeps_swInv h hsw, step_keeps_echoInv h hecho⟩

end Sys2Proof.Machine
end

section
/-! A whole single-wire measurement under the script of its sensor (41_singlewire.md R142 to R155; Machine/Sensors.lean). -/

namespace Sys2Proof.Machine

variable {s t u v : State} {k : Nat} {th : Thread} {more : List Choice}

/-- Two stretches of a run, counted by the choices that govern them. -/
theorem run_append {cs ds : List Choice} (h : Sys2Proof.core.run cs.length s = .next u)
    (h' : Sys2Proof.core.run ds.length u = .next v) : Sys2Proof.core.run (cs ++ ds).length s = .next v := by
  rw [List.length_append, run_add h, h']

theorem SwWaiting.trans (h : SwWaiting s u) (h' : SwWaiting u t) : SwWaiting s t where
  rest := by rw [h'.rest, h.rest]
  dir := h'.dir

theorem SwWaiting.threads (h : SwWaiting s t) : t.threads = s.threads := by rw [h.rest]

/-- `s` after a poll in which the line took the wanted level `us` microseconds after it began, with `more` still to come. -/
def State.afterSwPoll (s : State) (st : SwWait) (us : Nat) (more : List Choice) : State :=
  swDone st us { s with
    sw := { s.sw with wait := ⟨s.nowUs, st.level, s.nowUs + us⟩, pc := .wait st .c }
    pins := { s.pins with sw := { s.pins.sw with line := st.level } }
    tau := s.tau + 1000 * us
    script := more
    tick := s.tick + 5 }

/-- A poll of the measurement, counted by its script. -/
theorem run_pollScript (st : SwWait) {us : Nat} (hs : s.script = pollScript k .sw st.level us ++ more)
    (hk : s.threads[k]? = some th) (ha : th.act = .swMeasure) (hpc : s.sw.pc = .wait st .a) (hd : s.pins.sw.dir = .input) :
    Sys2Proof.core.run (pollScript k .sw st.level us).length s = .next (s.afterSwPoll st us more) :=
  run_swPoll hs hk ha hpc hd

/-- The call and the start signal, up to the first wait (41_singlewire.md R143, R144). -/
theorem run_swStart {rest : List Call} (hs : s.script = swStartScript k ++ more) (hk : s.threads[k]? = some th)
    (ha : th.act = .idle) (hw : th.calls = .word 0x2000000000 :: rest) (hat : s.sw.attached = true) (hpc : s.sw.pc = .idle)
    (hwake : s.sw.wake = none) :
    ∃ t, Sys2Proof.core.run (swStartScript k).length s = .next t ∧ t.script = more ∧ t.sw.pc = .wait .ackLow .a ∧
      t.threads[k]? = some { th with calls := rest, act := .swMeasure } ∧
      SwWaiting { s with threads := s.threads.modify k fun th => { th with calls := th.calls.tail, act := .swMeasure } } t := by
  have hlow := run_swStartLow (more := passUs 18000 :: hostMove k :: hostMove k :: hostMove k :: more) hs hk ha hw hat hpc hwake
  have hpass := (run_add (n := 4) hlow).trans (run_succ (n := 3) (step_env rfl rfl))
  have hth : (s.threads.modify k fun th => { th with calls := th.calls.tail, act := .swMeasure })[k]? =
      some { th with calls := rest, act := .swMeasure } := by simp [hk, hw]
  have hrelease := hpass.trans (run_swRelease (k := k) (u := s.tau + 18000000) (more := more) rfl hth rfl rfl rfl le_rfl rfl)
  exact ⟨_, hrelease, rfl, rfl, hth, rfl, rfl⟩

/-- The three waits of the handshake lead to the first slot with an empty frame (41_singlewire.md R145, R146). -/
theorem run_swHandshake {low high preamble : Nat}
    (hs : s.script = pollScript k .sw false low ++ (pollScript k .sw true high ++ (pollScript k .sw false preamble ++ more)))
    (hk : s.threads[k]? = some th) (ha : th.act = .swMeasure) (hpc : s.sw.pc = .wait .ackLow .a) (hd : s.pins.sw.dir = .input) :
    ∃ t, Sys2Proof.core.run (pollScript k .sw false low ++ (pollScript k .sw true high ++ pollScript k .sw false preamble)).length s =
        .next t ∧ t.script = more ∧ t.sw.pc = .wait .bitFirst .a ∧ t.sw.frame = 0 ∧ t.sw.k = 0 ∧ SwWaiting s t := by
  have hlow := run_pollScript .ackLow hs hk ha hpc hd
  refine ⟨_, run_append hlow (run_append (run_pollScript .ackHigh rfl hk ha rfl hd) (run_pollScript .preambleEnd rfl hk ha rfl hd)),
    rfl, rfl, rfl, rfl, rfl, hd⟩

/-- The last rise and the three steps after it give the verdict on the frame (41_singlewire.md R152 to R155). -/
theorem run_swVerdict {tail : Nat} (hs : s.script = pollScript k .sw true tail ++ ([hostMove k, hostMove k, hostMove k] ++ more))
    (hk : s.threads[k]? = some th) (ha : th.act = .swMeasure) (hpc : s.sw.pc = .wait .tail .a) (hd : s.pins.sw.dir = .input) :
    ∃ t, Sys2Proof.core.run (pollScript k .sw true tail ++ [hostMove k, hostMove k, hostMove k]).length s = .next t ∧
      t.sw.pc = .idle ∧ t.script = more ∧
      t.threads[k]? = some { th with
        act := .idle
        reply := .direct
        ret := some (th.reply.answer (.reading (checksumStatus (readingOf s.sw.frame)) (some (readingOf s.sw.frame)))) } ∧
      t = { s with
        sw := t.sw, pins := { s.pins with sw := ⟨.output, true, true⟩ }, tau := t.tau, threads := t.threads, script := t.script
        tick := t.tick } := by
  have hrise := run_pollScript .tail hs hk ha hpc hd
  have hend := run_swFinish (s := s.afterSwPoll .tail tail _) (more := more) rfl hk ha rfl
  refine ⟨_, run_append hrise hend, rfl, rfl, ?_, rfl⟩
  simp [State.afterSwPoll, swDone, hk]

/-- Settles O32: the start, the handshake, the slots and the verdict, one after the other. -/
theorem swMeasurementDecodesFrame : Obligations.SwMeasurementDecodesFrame := by
  rintro s k low high preamble tail slots more ⟨calls, act, reply, ret⟩ rest hat hpc hwake hk rfl rfl rfl hlen hs
  simp only [swScript, List.append_assoc] at hs ⊢
  obtain ⟨u, hstart, huscript, hupc, huk, hu⟩ := run_swStart hs hk rfl rfl hat hpc hwake
  obtain ⟨v, hshake, hvscript, hvpc, hvframe, hvcount, hv⟩ := run_swHandshake huscript huk rfl hupc hu.dir
  obtain ⟨w, hslots, hwscript, hwpc, -, -, hwframe, hw⟩ := run_slots rfl slots v _ (List.ne_nil_of_length_pos (by omega)) hvscript
    (hv.threads ▸ huk) hvpc hv.dir (by rw [hvcount, hlen]; rfl)
  obtain ⟨t, hend, htpc, htscript, htk, ht⟩ := run_swVerdict hwscript (hw.threads ▸ hv.threads ▸ huk) rfl hwpc hw.dir
  rw [hwframe, hvframe] at htk
  have hrun := run_append hstart (run_append hshake (run_append hslots hend))
  simp only [List.append_assoc] at hrun
  have hrest := ((hu.trans hv).trans hw).rest
  refine ⟨t, hrun, htk, htpc, ?_, htscript, ?_, ?_, ?_, ?_⟩ <;> rw [ht, hrest]

end Sys2Proof.Machine
end

section
/-! `ECHO_MEASURE`, its steps and a whole measurement under the script of its sensor (42_echo.md R170 to R177; Machine/Sensors.lean). -/

namespace Sys2Proof.Machine

variable {s : State} {k : Nat} {th : Thread} {more : List Choice}

/-! ## The start and the trigger -/

theorem exec_echoMeasure (hat : s.echo.attached = true) (hpc : s.echo.pc = .idle) :
    exec .echoMeasure s = .next (((s.pinWrite .trig true).ecGo .trigDelay).enter .echoMeasure) := by
  simp [exec, execEchoMeasure, hat, hpc]

/-- A level written to the trigger while it is an output: it drives that level, and the external register does not see it. -/
theorem State.pinWrite_trig (hd : s.pins.trig.dir = .output) (v : Level) :
    s.pinWrite .trig v = { s with pins := { s.pins with trig := .driving v } } := by
  have hwrite : s.pins.trig.write v = .driving v := (PinHandle.mk.injEq ..).mpr ⟨hd, rfl, PinHandle.write_line _ _ hd⟩
  rw [State.pinWrite, State.setPins, Ext.react_set_other _ _ _ _ (by decide) (by decide)]
  simp only [Pins.get, Pins.set, hwrite]

/-- Settles O34. -/
theorem echoMeasureStarts : Obligations.EchoMeasureStarts := by
  intro s hat hpc hd
  have hexec := exec_echoMeasure hat hpc
  rw [State.pinWrite_trig hd] at hexec
  exact ⟨_, hexec, rfl, rfl, rfl, fun _ => rfl, callerEnters_enter rfl, rfl⟩

theorem ecTurn_trigDelay (h : s.echo.pc = .trigDelay) : ecTurn s = ecTrigDelay s := by rw [ecTurn, h]

theorem ecTurn_trigLow (h : s.echo.pc = .trigLow) : ecTurn s = (s.pinWrite .trig false).ecGo (.wait .high .a) := by rw [ecTurn, h]

theorem ecTurn_convert (h : s.echo.pc = .convert) : ecTurn s = ecConvert s := by rw [ecTurn, h]

theorem ecTrigDelay_begins (h : s.echo.wake = none) :
    ecTrigDelay s = { s with echo := { s.echo with wake := some (s.tau + 10000) } } := by
  rw [ecTrigDelay, h]; rfl

theorem ecTrigDelay_over (hpc : s.echo.pc = .trigDelay) (h : (ecTrigDelay s).echo.pc = .trigLow) :
    ∃ w, s.echo.wake = some w ∧ w ≤ s.tau := by
  unfold ecTrigDelay at h
  split at h
  · exact absurd (hpc.symm.trans h) (by decide)
  · exact absurd (hpc.symm.trans h) (by decide)
  · next hd => exact delayTurn_over hd

/-- Settles O35: the invariant says that the trigger is an output. -/
theorem echoTriggerPulse : Obligations.EchoTriggerPulse := by
  intro s hs
  refine ⟨fun hpc hwake => ?_, fun hpc hnext => ?_, fun hpc => ?_⟩
  · rw [ecTurn_trigDelay hpc, ecTrigDelay_begins hwake]
    exact ⟨rfl, rfl⟩
  · rw [ecTurn_trigDelay hpc] at hnext
    exact ecTrigDelay_over hpc hnext
  · rw [ecTurn_trigLow hpc, State.pinWrite_trig hs.echo.driven.1]
    exact ⟨rfl, rfl⟩

/-! ## The waits -/

section
variable {st : EcWait} (hpc : s.echo.pc = .wait st .c) (hl : s.echo.wait.l ≠ st.level)
include hpc hl

theorem ecTurn_late (ht : echoTimeoutUs < s.nowUs - s.echo.wait.t0) :
    ecTurn s = ecAbort { s with echo := { s.echo with wait := { s.echo.wait with t := s.nowUs } } } := by
  rw [ecTurn, hpc]
  simp only [ecWaitTurn, waitTurn_late hl ht]

theorem ecTurn_again (ht : s.nowUs - s.echo.wait.t0 ≤ echoTimeoutUs) :
    ecTurn s = { s with echo := { s.echo with wait := { s.echo.wait with t := s.nowUs }, pc := .wait st .b } } := by
  rw [ecTurn, hpc]
  simp only [ecWaitTurn, waitTurn_again hl ht]

end

theorem step_of_runs_echoMeasure (h : s.runs .echoMeasure) : step s = .next (ecTurn s).spend := by
  obtain ⟨hc, th, hk, ha⟩ := h
  exact step_ecTurn hc hk ha

/-- After the pulse the trigger drives a low level. -/
theorem State.EchoInv.trig_low (hs : s.EchoInv) (hpc : s.echo.pc.trigHigh = false) : s.pins.trig = ⟨.output, false, false⟩ := by
  have hout : s.pins.trig.out = false := hs.trigger.trans hpc
  exact (PinHandle.mk.injEq ..).mpr ⟨hs.driven.1, hout, hs.driven.2.trans hout⟩

/-- Settles O36. -/
theorem echoTimeoutAborts : Obligations.EchoTimeoutAborts := by
  intro s st hs hruns hpc hl
  have hstep := step_of_runs_echoMeasure hruns
  refine ⟨fun ht => ?_, fun ht => ?_⟩
  · have hlow := hs.echo.trig_low (by rw [hpc]; rfl)
    rw [ecTurn_late hpc hl ht] at hstep
    exact ⟨_, hstep, callerReturns_giveBack rfl, rfl, rfl, hlow, hs.echo.input, rfl⟩
  · rw [ecTurn_again hpc hl ht] at hstep
    exact ⟨_, hstep, rfl, rfl, rfl⟩

/-! ## A whole measurement -/

/-- The conversion is the last step of the measurement and gives its caller the distance (42_echo.md R175, R176). -/
theorem run_ecConvert (hs : s.script = hostMove k :: more) (hk : s.threads[k]? = some th) (ha : th.act = .echoMeasure)
    (hpc : s.echo.pc = .convert) :
    Sys2Proof.core.run 1 s = .next { s with
      echo := { s.echo with dist := distanceOf s.cfg s.echo.t, pc := .idle }
      threads := s.threads.modify k fun th => { th with
        act := .idle
        reply := .direct
        ret := some (th.reply.answer (.distance .ok (some (distanceOf s.cfg s.echo.t)))) }
      script := more
      tick := s.tick + 1 } := by
  have hc : s.choice.agent = .host k := by rw [choice_cons hs]; rfl
  obtain rfl : s.caller = k := caller_of_host hc
  obtain rfl : s.script.tail = more := by rw [hs, List.tail_cons]
  rw [run_succ (step_ecTurn hc hk ha), run_zero, ecTurn_convert hpc]
  rfl

/-- Settles O37: the trigger, the two waits and the conversion, one after the other. -/
theorem echoMeasurementConverts : Obligations.EchoMeasurementConverts := by
  rintro s k rise high more ⟨calls, act, reply, ret⟩ rest hs hat hpc hk rfl rfl rfl hscript
  simp only [echoScript, List.append_assoc] at hscript ⊢
  have hthread : (s.threads.modify k fun th => { th with calls := th.calls.tail, act := .echoMeasure })[k]? =
      some ⟨rest, .echoMeasure, .direct, ret⟩ := by simp [hk]
  have htrigger := run_ecTrigger hscript hk rfl rfl hat hpc (hs.echo.wake_none (by simp [hpc])) hs.echo.driven.1
  refine ⟨_, run_append htrigger (run_append (run_ecPoll (st := .high) rfl hthread rfl rfl hs.echo.input)
    (run_append (run_ecPoll (st := .low) rfl hthread rfl rfl hs.echo.input) (run_ecConvert rfl hthread rfl rfl))),
    ?_, rfl, rfl, rfl, rfl, rfl, rfl, rfl⟩
  exact (List.getElem?_modify_eq ..).trans (congrArg _ hthread)

end Sys2Proof.Machine
end

section
/-! `PWM_SET_DUTY`: the range check, and its commit accepted or rejected (43_pwm.md R186 to R191). -/

namespace Sys2Proof.Machine

variable {s : State} {p : Int} {n : Nat}

/-! ## The range check (43_pwm.md R187) -/

theorem exec_pwmSetDuty_inRange (hat : s.pwm.attached = true) (hlo : 0 ≤ p) (hhi : p ≤ 100) :
    exec (.pwmSetDuty p) s = .next (commitDuty p.toNat s) := by
  have hrange : dutyInRange p = true := dutyInRange_iff.mpr ⟨hlo, hhi⟩
  simp [exec, execPwmSetDuty, hat, hrange]

theorem exec_pwmSetDuty_outOfRange (hat : s.pwm.attached = true) (hout : p < 0 ∨ 100 < p) :
    exec (.pwmSetDuty p) s = .next (s.giveBack (.status .invalidArgument)) := by
  have hrange : ¬ dutyInRange p = true := fun h => by
    have := dutyInRange_iff.mp h
    omega
  simp [exec, execPwmSetDuty, hat, hrange, State.raise, State.goIdle]

/-! ## The commit (43_pwm.md R189 to R191) -/

theorem commitDuty_accepted (hc : s.choice.accept = true) :
    commitDuty n s = { s with
      pwm := { s.pwm with out := pwmStateOf n, lastPercent := n }, commits := s.commits + 1 }.giveBack (.status .ok) := by
  simp [commitDuty, State.commit, hc]

theorem commitDuty_rejected (hc : s.choice.accept = false) :
    commitDuty n s = { s with commits := s.commits + 1 }.giveBack (.status .applyError) := by
  simp [commitDuty, State.commit, hc, State.raise, State.goIdle]

/-- An accepted commit in range makes the invariant of the engine hold, whatever the collaborator held before. -/
theorem pwmInv_commitDuty (hn : n ≤ 100) (hc : s.choice.accept = true) : (commitDuty n s).PwmInv := by
  rw [commitDuty_accepted hc]
  exact pwmInv_of_percent hn rfl rfl

/-! ## The obligations -/

/-- Settles O38: the numbers are those of the invariant at the percentage kept. -/
theorem dutyAccepted : Obligations.DutyAccepted := by
  intro s p hat hlo hhi hc
  obtain ⟨-, hperiod, hduty, henabled⟩ := pwmInv_commitDuty (n := p.toNat) (by omega) hc
  have hexec := exec_pwmSetDuty_inRange hat hlo hhi
  rw [commitDuty_accepted hc] at hexec hperiod hduty henabled
  have hpercent : (p.toNat : Int) = p := Int.toNat_of_nonneg hlo
  refine ⟨_, hexec, hperiod, ?_, henabled, hpercent, hat, rfl, callerReturns_giveBack rfl, fun _ => rfl, rfl⟩
  rw [hduty, Nat.cast_mul]
  exact congrArg (10000 * ·) hpercent

/-- Settles O39. -/
theorem dutyRejected : Obligations.DutyRejected := by
  intro s p hat hlo hhi hc
  have hexec := exec_pwmSetDuty_inRange hat hlo hhi
  rw [commitDuty_rejected hc] at hexec
  exact ⟨_, hexec, rfl, rfl, callerReturns_giveBack rfl, rfl⟩

/-- Settles O40: outside the range the check answers alone; at both ends the accepted commit does. -/
theorem dutyOutOfRange : Obligations.DutyOutOfRange := by
  intro s p hat
  refine ⟨fun hout => ?_, fun hend hc => ?_⟩
  · exact ⟨_, exec_pwmSetDuty_outOfRange hat hout, callerReturns_giveBack rfl, rfl, rfl, rfl⟩
  · have hexec := exec_pwmSetDuty_inRange hat (p := p) (by omega) (by omega)
    rw [commitDuty_accepted hc] at hexec
    exact ⟨_, hexec, callerReturns_giveBack rfl, rfl⟩

end Sys2Proof.Machine
end

section
/-! Numbers in decimal ASCII: what is printed, what a PWM write spells, and that the one is the other (44_charif.md R208, R211). -/

namespace Sys2Proof.Machine

variable {lf : Bool} {bs acc : List Byte} {n k fuel : Nat} {p : Int}

/-! ## Printing (R208) -/

theorem toNat_printedDigit (n : Nat) : (BitVec.ofNat 8 (0x30 + n % 10)).toNat = 0x30 + n % 10 := by
  rw [BitVec.toNat_ofNat, Nat.mod_eq_of_lt (by omega)]

theorem isDigit_printedDigit (n : Nat) : isDigit (BitVec.ofNat 8 (0x30 + n % 10)) = true := by
  rw [isDigit_iff, toNat_printedDigit]
  omega

theorem isDigit_of_mem_decimalAux (hacc : ∀ b ∈ acc, isDigit b = true) : ∀ b ∈ decimalAux fuel n acc, isDigit b = true := by
  induction fuel generalizing n acc with
  | zero => exact hacc
  | succ fuel ih =>
    have hcons : ∀ b ∈ BitVec.ofNat 8 (0x30 + n % 10) :: acc, isDigit b = true :=
      List.forall_mem_cons.mpr ⟨isDigit_printedDigit n, hacc⟩
    rw [decimalAux]
    split
    · exact hcons
    · exact ih hcons

/-- The decimal value of digits read after a number `v`; in `parseDigits_eq_some` it is what they parse to. -/
def digitsValue (v : Nat) (digits : List Byte) : Nat := digits.foldl (fun v b => v * 10 + (b.toNat - 0x30)) v

theorem digitsValue_cons_printedDigit (n : Nat) (acc : List Byte) :
    digitsValue (n / 10) (BitVec.ofNat 8 (0x30 + n % 10) :: acc) = digitsValue n acc := by
  have hvalue : n / 10 * 10 + (0x30 + n % 10 - 0x30) = n := by omega
  rw [digitsValue, List.foldl_cons, toNat_printedDigit, hvalue, digitsValue]

/-- To print `n` before `acc` and to read on from nothing is to read `acc` on from `n`. -/
theorem digitsValue_decimalAux (hfuel : n < fuel) : digitsValue 0 (decimalAux fuel n acc) = digitsValue n acc := by
  induction fuel generalizing n acc with
  | zero => omega
  | succ fuel ih =>
    have hcons := digitsValue_cons_printedDigit n acc
    rw [decimalAux]
    split
    · next hlast => rwa [hlast] at hcons
    · exact (ih (by omega)).trans hcons

theorem length_decimalAux_le (hn : n < 10 ^ (k + 1)) : (decimalAux fuel n acc).length ≤ k + 1 + acc.length := by
  induction fuel generalizing n acc k with
  | zero => exact Nat.le_add_left ..
  | succ fuel ih =>
    rw [decimalAux]
    split
    · rw [List.length_cons]
      omega
    · next hmore =>
      cases k with
      | zero => omega
      | succ k =>
        have hdiv : n / 10 < 10 ^ (k + 1) := by omega
        exact (ih hdiv).trans_eq (by rw [List.length_cons]; omega)

theorem decimalAux_ne_nil (h : 0 < fuel ∨ acc ≠ []) : decimalAux fuel n acc ≠ [] := by
  induction fuel generalizing n acc with
  | zero => simpa [decimalAux] using h
  | succ fuel ih =>
    rw [decimalAux]
    split
    · exact List.cons_ne_nil _ _
    · exact ih (.inr (List.cons_ne_nil _ _))

theorem isDigit_of_mem_decimal : ∀ b ∈ decimal n, isDigit b = true :=
  isDigit_of_mem_decimalAux (by simp)

theorem digitsValue_decimal (n : Nat) : digitsValue 0 (decimal n) = n :=
  digitsValue_decimalAux n.lt_succ_self

theorem length_decimal_le (hn : n < 10 ^ (k + 1)) : (decimal n).length ≤ k + 1 := length_decimalAux_le hn

theorem decimal_ne_nil (n : Nat) : decimal n ≠ [] := decimalAux_ne_nil (.inl n.succ_pos)

/-! ## Parsing (R211) -/

/-- `bs` is a sign or none, digits, and an accepted line feed or none, nine bytes at most, and `p` is the number they spell
(44_charif.md R211); `parsePercent_eq_some` ties it to the parse. -/
def SpellsPercent (lf : Bool) (bs : List Byte) (p : Int) : Prop :=
  ∃ sign digits tail : List Byte, bs = sign ++ digits ++ tail ∧ bs.length ≤ 9 ∧
    (sign = [] ∨ sign = [0x2B] ∨ sign = [0x2D]) ∧
    digits ≠ [] ∧ (∀ b ∈ digits, 0x30 ≤ b.toNat ∧ b.toNat ≤ 0x39) ∧
    (tail = [] ∨ tail = [0x0A] ∧ lf = true) ∧
    p = (if sign = [0x2D] then -1 else 1) * (digitsValue 0 digits : Int)

/-- Digits that parse begin with no sign. -/
theorem parseNumber_of_parseDigits (h : parseDigits lf bs 0 false = some n) : parseNumber lf bs = some (n : Int) := by
  cases bs with
  | nil => cases h
  | cons b rest =>
    have hplus : b ≠ 0x2B := by rintro rfl; simp [parseDigits, isDigit] at h
    have hminus : b ≠ 0x2D := by rintro rfl; simp [parseDigits, isDigit] at h
    rw [parseNumber, if_neg hplus, if_neg hminus, h]
    rfl

theorem parseNumber_eq_some : parseNumber lf bs = some p ↔ ∃ (sign rest : List Byte) (n : Nat), bs = sign ++ rest ∧
    (sign = [] ∨ sign = [0x2B] ∨ sign = [0x2D]) ∧ parseDigits lf rest 0 false = some n ∧
    p = (if sign = [0x2D] then -1 else 1) * (n : Int) := by
  constructor
  · intro h
    cases bs with
    | nil => cases h
    | cons b rest =>
      simp only [parseNumber] at h
      split at h
      · next hb =>
        obtain ⟨n, hn, rfl⟩ := Option.map_eq_some_iff.mp h
        exact ⟨[0x2B], rest, n, by rw [hb]; rfl, by simp, hn, by simp⟩
      · split at h
        · next hb =>
          obtain ⟨n, hn, rfl⟩ := Option.map_eq_some_iff.mp h
          exact ⟨[0x2D], rest, n, by rw [hb]; rfl, by simp, hn, by simp⟩
        · obtain ⟨n, hn, rfl⟩ := Option.map_eq_some_iff.mp h
          exact ⟨[], b :: rest, n, rfl, by simp, hn, by simp⟩
  · rintro ⟨sign, rest, n, rfl, rfl | rfl | rfl, hn, rfl⟩
    · simpa using parseNumber_of_parseDigits hn
    · simp [parseNumber, hn]
    · simp [parseNumber, hn]

theorem parsePercent_eq_some : parsePercent lf bs = some p ↔ SpellsPercent lf bs p := by
  have hsplit : parsePercent lf bs = some p ↔ bs.length ≤ 9 ∧ parseNumber lf bs = some p := by
    rw [parsePercent, pwmMaxWriteBytes, Option.ite_none_right_eq_some]
  rw [hsplit, parseNumber_eq_some]
  constructor
  · rintro ⟨hlen, sign, rest, n, rfl, hsign, hn, rfl⟩
    obtain ⟨digits, tail, rfl, hne, hdigits, htail, rfl⟩ := (parseDigits_eq_some ..).mp hn
    exact ⟨sign, digits, tail, (List.append_assoc ..).symm, hlen, hsign, by simpa using hne,
      fun b hb => isDigit_iff.mp (hdigits b hb), htail, rfl⟩
  · rintro ⟨sign, digits, tail, rfl, hlen, hsign, hne, hdigits, htail, rfl⟩
    exact ⟨hlen, sign, digits ++ tail, _, List.append_assoc .., hsign, (parseDigits_eq_some ..).mpr
      ⟨digits, tail, rfl, .inr hne, fun b hb => isDigit_iff.mpr (hdigits b hb), htail, rfl⟩, rfl⟩

/-! ## The one against the other -/

theorem parsePercent_decimal_append {tail : List Byte} (htail : tail = [] ∨ tail = [0x0A] ∧ lf = true)
    (hlen : (decimal n).length + tail.length ≤ 9) : parsePercent lf (decimal n ++ tail) = some (n : Int) :=
  parsePercent_eq_some.mpr ⟨[], decimal n, tail, rfl, by simpa using hlen, .inl rfl, decimal_ne_nil n,
    fun b hb => isDigit_iff.mp (isDigit_of_mem_decimal b hb), htail, by simp [digitsValue_decimal]⟩

/-- Without the line feed in the grammar, the last byte of a number is a digit. -/
theorem parsePercent_append_lf : parsePercent false (bs ++ [0x0A]) = none := by
  rw [Option.eq_none_iff_forall_ne_some]
  intro p h
  obtain ⟨sign, digits, tail, hbs, -, -, hne, hdigits, rfl | ⟨-, hlf⟩, -⟩ := parsePercent_eq_some.mp h
  · have hlast : 0x0A = digits.getLast hne := by
      have := congrArg List.getLast? hbs
      simpa [List.getLast?_append, List.getLast?_eq_some_getLast hne] using this
    exact absurd (hdigits _ (hlast ▸ List.getLast_mem hne)) (by decide)
  · cases hlf

/-- Settles O43: the line feed is a ninth byte at most, and no number ends with it unless it is accepted. -/
theorem decimalParsesBack : Obligations.DecimalParsesBack := by
  intro n hn lf
  have hlen : (decimal n).length ≤ 9 := length_decimal_le hn
  refine ⟨?_, fun hn => ⟨?_, parsePercent_append_lf⟩⟩
  · simpa using parsePercent_decimal_append (tail := []) (.inl rfl) hlen
  · have hlen : (decimal n).length ≤ 8 := length_decimal_le hn
    exact parsePercent_decimal_append (.inr ⟨rfl, rfl⟩) (Nat.succ_le_succ hlen)

end Sys2Proof.Machine
end

section
/-! The calls of the character interface: the operation a call expands to, the call that is answered at once, and the answer that is made
of an operation's return (44_charif.md R201 to R218). -/

namespace Sys2Proof.Machine

variable {s : State} {e : Engine} {off n : Nat} {st : Status} {bs : List Byte}

/-! ## Calls answered at once -/

theorem answerAtOnce_of_attached (r : Return) (hat : s.attached e = true) : answerAtOnce e r s = .next (s.giveBack r) := by
  simp [answerAtOnce, hat]

theorem issue_swRead_of_pos (hoff : 0 < off) : issue (.swRead off) s = answerAtOnce .sw (readAnswer off []) s :=
  if_neg hoff.ne'

theorem issue_echoRead_of_pos (hoff : 0 < off) : issue (.echoRead off) s = answerAtOnce .echo (readAnswer off []) s :=
  if_neg hoff.ne'

theorem issue_pwmWrite_of_none (h : parsePercent s.cfg.acceptLf bs = none) :
    issue (.pwmWrite bs) s = answerAtOnce .pwm (.error .invalidArgument) s := by
  simp [issue, issuePwmWrite, h]

theorem issue_pwmWrite_of_some {p : Int} (h : parsePercent s.cfg.acceptLf bs = some p) :
    issue (.pwmWrite bs) s = exec (.pwmSetDuty p) (s.setReply (.wrote bs.length)) := by
  simp [issue, issuePwmWrite, h]

/-! ## Display writes (R206) -/

theorem issue_dispWrite_long (s : State) (b0 b1 b2 : Byte) (bs : List Byte) : issue (.dispWrite (b0 :: b1 :: b2 :: bs)) s =
    exec (.dispSetDigits (b0 - 0x30) (b1 - 0x30)) (s.setReply (.wrote (dispWriteCount s.cfg (b0 :: b1 :: b2 :: bs)))) := rfl

theorem dispWriteCount_of_allBytes {c : Config} (hall : c.longWriteReturn = .allBytes) : dispWriteCount c bs = bs.length := by
  simp [dispWriteCount, hall]

theorem dispWriteCount_of_two {c : Config} (htwo : c.longWriteReturn = .two) : dispWriteCount c bs = min bs.length 2 := by
  rw [dispWriteCount, htwo, Nat.min_def]

/-! ## Answers -/

theorem readAnswer_zero (bs : List Byte) : readAnswer 0 bs = .bytes bs bs.length :=
  congrArg (Return.bytes bs) (Nat.zero_add _)

theorem length_distanceBytes (v : Nat) : (distanceBytes v).length = 14 + (decimal (v / 10)).length := by
  simp only [distanceBytes, List.length_append, List.length_cons, List.length_nil]
  omega

theorem answer_swRead_zero (st : Status) (r : Reading) : (Reply.swRead 0).answer (.reading st (some r)) =
    .bytes (decimal r.temperature.toNat) (decimal r.temperature.toNat).length :=
  readAnswer_zero _

theorem answer_echoRead_zero (st : Status) (v : Nat) : (Reply.echoRead 0).answer (.distance st (some v)) =
    .bytes (distanceBytes v) (distanceBytes v).length :=
  readAnswer_zero _

theorem answer_wrote_status_of_ne_ok (hst : st ≠ .ok) : (Reply.wrote n).answer (.status st) = .error st := by
  cases st with
  | ok => exact absurd rfl hst
  | _ => rfl

/-! ## The obligations -/

/-- Settles O44: up to two bytes by evaluation, above that by the count reported. -/
theorem displayWriteExpands : Obligations.DisplayWriteExpands := by
  intro s b0 b1 b2 bs
  have hissue := issue_dispWrite_long s b0 b1 b2 bs
  refine ⟨rfl, rfl, rfl, fun hall => ?_, fun htwo => ?_, fun _ => rfl⟩
  · rw [hissue, dispWriteCount_of_allBytes hall]
    rfl
  · rw [hissue, dispWriteCount_of_two htwo, List.length_cons, List.length_cons, List.length_cons, Nat.min_eq_right (by omega)]

/-- Settles O45: each of the four calls is the one that is answered at once. -/
theorem emptyReads : Obligations.EmptyReads := by
  intro s off c e hcall hat
  have hissue : issue c s = answerAtOnce e (readAnswer off []) s := by
    obtain ⟨rfl, rfl⟩ | ⟨rfl, rfl⟩ | ⟨hoff, rfl, rfl⟩ | ⟨hoff, rfl, rfl⟩ := hcall
    · rfl
    · rfl
    · exact issue_swRead_of_pos hoff
    · exact issue_echoRead_of_pos hoff
  exact ⟨_, hissue.trans (answerAtOnce_of_attached _ hat), callerReturns_giveBack rfl, rfl⟩

/-- Settles O46: at offset 0 the position after the read is the byte count. -/
theorem sensorReadAnswers : Obligations.SensorReadAnswers := by
  refine ⟨fun s => ⟨rfl, rfl⟩, answer_swRead_zero, fun v => ?_, rfl, rfl, by decide, by decide, by decide⟩
  rw [answer_echoRead_zero, length_distanceBytes]
  rfl

/-- Settles O47: the grammar is `parsePercent_eq_some`, and the call goes by whether the bytes parse. -/
theorem pwmWriteParses : Obligations.PwmWriteParses := by
  refine ⟨fun _ _ _ => parsePercent_eq_some, fun n => ⟨rfl, fun _ => answer_wrote_status_of_ne_ok⟩,
    fun s bs hat => ⟨fun hnone => ?_, fun _ => issue_pwmWrite_of_some⟩⟩
  exact ⟨_, (issue_pwmWrite_of_none hnone).trans (answerAtOnce_of_attached _ hat), callerReturns_giveBack rfl, rfl⟩

end Sys2Proof.Machine
end

section
/-! Time, the parameters, and the requests the spec refuses (60_exceptions.md R230, R231, R243; 93_implementation_defined.md U1 to U3,
U7). -/

namespace Sys2Proof.Machine

variable {s t u : State} {a b : Activity}

/-! ## Delays -/

/-- Settles O26: the deadline is the time of the beginning and the length, and the test is made against it. -/
theorem delayIsLowerBound : Obligations.DelayIsLowerBound := by
  intro n tau tau' w hbegins
  obtain ⟨-, rfl⟩ := delayTurn_starts hbegins
  by_cases hle : tau + n ≤ tau' <;> simp [delayTurn, hle, Nat.lt_of_not_le]

/-! ## Time (R230) -/

theorem HostMove.tau (h : HostMove s a b u) : u.tau = s.tau := by
  cases h with
  | swGoesOn | swEnds => exact swTurn_tau s
  | ecGoesOn | ecEnds => exact ecTurn_tau s
  | attachFails e => exact s.goIdle_tau e
  | detaches e => cases e <;> rfl
  | _ => rfl

/-- Of the agents only ENV moves the time. -/
theorem step_tau_of_not_env (hc : ∀ e, s.choice.agent ≠ .env e) (h : step s = .next t) : t.tau = s.tau := by
  obtain ⟨v, hv, rfl⟩ := step_eq_next h
  cases ha : s.choice.agent with
  | host k =>
    rw [ha] at hv
    obtain rfl | ⟨p, th, ⟨_, hp, -, -, -⟩, -, ⟨u, b, f, hmove, hu, -, -, -⟩⟩ := hostTurn_operates ha hv
    · rfl
    · exact hu.tau.trans (hmove.tau.trans hp.tau)
  | refresh =>
    rw [ha] at hv
    obtain ⟨-, -, -, -, -, htau, -⟩ := refreshTurn_frame hv
    exact htau
  | env e => exact absurd ha (hc e)
  | call k c => rw [ha] at hv; cases hv; exact (callArrives_sameEngines k c s).tau

theorem step_tau_le (h : step s = .next t) : s.tau ≤ t.tau := by
  by_cases hc : ∃ e, s.choice.agent = .env e
  · obtain ⟨e, he⟩ := hc
    obtain ⟨v, hv, rfl⟩ := step_eq_next h
    rw [he] at hv
    cases hv
    exact envTurn_tau_le e s
  · exact (step_tau_of_not_env (not_exists.mp hc) h).ge

/-- Settles O58. -/
theorem timeAndParameters : Obligations.TimeAndParameters :=
  fun _ _ h => ⟨step_cfg h, step_tau_le h, fun hc => step_tau_of_not_env hc h⟩

/-! ## The callers (R243) -/

/-- Settles O56. -/
theorem callersInvKept : Obligations.CallersInvKept := fun _ _ hs h => step_keeps_callersInv h hs.sw hs.echo hs.callers

/-! ## Refused requests -/

section
variable (hat : s.disp.attached = true)
include hat

theorem exec_dispStart_running (hrun : s.disp.running = true) : exec .dispStart s = .refused .startWhileRunning := by
  simp [exec, execDispStart, hat, hrun]

theorem exec_dispStart_stopping (hrun : s.disp.running = false) (hstop : s.stopInProgress = true) :
    exec .dispStart s = .refused .startDuringStop := by
  simp [exec, execDispStart, hat, hrun, hstop]

theorem exec_dispStop_stopped (hrun : s.disp.running = false) : exec .dispStop s = .refused .stopWhileNotRunning := by
  simp [exec, execDispStop, hat, hrun]

theorem exec_dispStop_stopping (hrun : s.disp.running = true) (hstop : s.stopInProgress = true) :
    exec .dispStop s = .refused .stopInProgress := by
  simp [exec, execDispStop, hat, hrun, hstop]

end

theorem exec_swMeasure_busy (hat : s.sw.attached = true) (hpc : s.sw.pc ≠ .idle) : exec .swMeasure s = .refused .swBusy := by
  simp [exec, execSwMeasure, hat, hpc]

theorem exec_echoMeasure_busy (hat : s.echo.attached = true) (hpc : s.echo.pc ≠ .idle) :
    exec .echoMeasure s = .refused .echoBusy := by
  simp [exec, execEchoMeasure, hat, hpc]

/-- Settles O41. -/
theorem undefinedRequestsRefused : Obligations.UndefinedRequestsRefused :=
  fun _ => ⟨fun _ => ⟨rfl, rfl⟩, exec_dispStart_running, exec_dispStart_stopping, exec_dispStop_stopped, exec_dispStop_stopping,
    exec_swMeasure_busy, exec_echoMeasure_busy⟩

end Sys2Proof.Machine
end

section
/-! Every operation in progress ends (60_exceptions.md R242; 40_display.md R132; 41_singlewire.md R141; 44_charif.md R218): what an
operation has left only gets less under the premise of R242, and its thread stays inside of it until it returns. -/

namespace Sys2Proof.Machine

variable {s t u : State} {a b c : Activity} {k : Nat} {th : Thread}

/-! ## The thread inside of an operation -/

/-- Thread `k` is inside of the operation `a`. -/
def State.threadInside (s : State) (k : Nat) (a : Activity) : Prop := ∃ th, s.threads[k]? = some th ∧ th.act = a

/-- Thread `k` is idle and has an answer. -/
def State.threadReturned (s : State) (k : Nat) : Prop := ∃ th, s.threads[k]? = some th ∧ th.act = .idle ∧ th.ret ≠ none

theorem threadReturned_giveBack {r : Return} (hk : s.threads[s.caller]? = some th) (h : t.threads = (s.giveBack r).threads) :
    t.threadReturned s.caller := by
  obtain ⟨-, -, hret⟩ := callerReturns_giveBack h
  exact ⟨_, hret th hk, rfl, by simp⟩

theorem step_setDigits_returns {u : Byte} (hruns : s.runs (.setDigits u)) (h : step s = .next t) : t.threadReturned s.caller := by
  obtain ⟨-, th, hk, -⟩ := id hruns
  rw [step_setDigits hruns] at h
  cases h
  exact threadReturned_giveBack (s := s) hk rfl

theorem step_stopHold_returns (hruns : s.runs .stopHold) (hrun : s.disp.running = false) (h : step s = .next t) :
    t.threadReturned s.caller := by
  obtain ⟨-, th, hk, -⟩ := id hruns
  rw [step_stopHold hruns, stopHoldTurn, if_neg (by simp [hrun])] at h
  cases h
  exact threadReturned_giveBack (s := s) hk rfl

/-- A turn that returns no answer leaves the calling thread where it is. -/
theorem threadInside_or_returned (hin : s.threadInside s.caller a)
    (h : t.threads = s.threads ∨ ∃ r, t.threads = (s.giveBack r).threads) :
    t.threadInside s.caller a ∨ t.threadReturned s.caller := by
  obtain ⟨th, hk, hact⟩ := hin
  obtain hsame | ⟨r, hr⟩ := h
  · exact .inl ⟨th, hsame ▸ hk, hact⟩
  · exact .inr (threadReturned_giveBack hk hr)

theorem swTurn_threads (s : State) : (swTurn s).threads = s.threads ∨ ∃ r, (swTurn s).threads = (s.giveBack r).threads := by
  by_cases hpc : s.sw.pc = .idle
  · exact .inl (by rw [swTurn, hpc])
  · exact (swTurn_returns s hpc).symm.imp And.right And.right

theorem ecTurn_threads (s : State) : (ecTurn s).threads = s.threads ∨ ∃ r, (ecTurn s).threads = (s.giveBack r).threads := by
  by_cases hpc : s.echo.pc = .idle
  · exact .inl (by rw [ecTurn, hpc])
  · exact (ecTurn_returns s hpc).symm.imp And.right And.right

/-- A turn of a thread inside of an operation leaves it there or returns. -/
theorem step_of_runs (ha : a ≠ .idle) (hruns : s.runs a) (h : step s = .next t) :
    t.threadInside s.caller a ∨ t.threadReturned s.caller := by
  cases a with
  | idle => exact absurd rfl ha
  | setDigits u => exact .inr (step_setDigits_returns hruns h)
  | stopHold =>
    by_cases hrun : s.disp.running = true
    · rw [step_stopHold hruns, stopHoldTurn, if_pos hrun] at h
      cases h
      exact .inl hruns.2
    · exact .inr (step_stopHold_returns hruns (Bool.eq_false_of_not_eq_true hrun) h)
  | swMeasure =>
    rw [step_of_runs_swMeasure hruns] at h
    cases h
    exact threadInside_or_returned (s := s) hruns.2 (swTurn_threads s)
  | echoMeasure =>
    rw [step_of_runs_echoMeasure hruns] at h
    cases h
    exact threadInside_or_returned (s := s) hruns.2 (ecTurn_threads s)

/-- A thread inside of an operation stays there, whoever takes the step, or returns. -/
theorem State.threadInside.step (hin : s.threadInside k a) (ha : a ≠ .idle) (h : step s = .next t) :
    t.threadInside k a ∨ t.threadReturned k := by
  obtain ⟨th, hk, rfl⟩ := hin
  by_cases hc : s.choice.agent = .host k
  · obtain rfl := caller_of_host hc
    exact step_of_runs ha ⟨hc, th, hk, rfl⟩ h
  · obtain ⟨calls, hcalls⟩ := step_otherThread h hk hc
    exact .inl ⟨_, hcalls, rfl⟩

/-! ## The engine of a measurement belongs to its thread -/

/-- Where at most one thread is inside of an operation of the kind `q`, no second one is. -/
theorem outside_of_inside_le_one {q : Activity → Bool} {j : Nat} {other : Thread} (hone : s.inside q ≤ 1) (hidle : q .idle = false)
    (hk : s.threads[k]? = some th) (hq : q th.act = true) (hj : s.threads[j]? = some other) (hjk : j ≠ k) : ¬ q other.act = true := by
  have hdrop := countP_modify (fun th : Thread => q th.act) (fun th => { th with act := .idle }) hk
  rw [if_pos hq, if_neg (by simp [hidle])] at hdrop
  have hnone : (s.threads.modify k fun th => { th with act := .idle }).countP (fun th => q th.act) = 0 := by
    unfold State.inside at hone
    omega
  have hmem : (s.threads.modify k fun th => { th with act := .idle })[j]? = some other := by simp [hjk.symm, hj]
  exact List.countP_eq_zero.mp hnone other (List.mem_of_getElem? hmem)

/-- A step that is not a turn of thread `k` moves no engine that measures, or it is a move of a thread that is inside of another
operation. -/
theorem step_foreign (hin : s.threadInside k a) (ha : a ≠ .idle) (hone : s.inside (· == a) ≤ 1) (hc : s.choice.agent ≠ .host k)
    (h : step s = .next t) :
    ∃ p u, SameEngines s p ∧ SameEngines u t ∧ (u.sw = p.sw ∧ u.echo = p.echo ∨ ∃ b c, b ≠ a ∧ HostMove p b c u) := by
  obtain ⟨th, hk, hact⟩ := hin
  obtain ⟨v, hv, rfl⟩ := step_eq_next h
  have hspend : SameEngines v v.spend := ⟨rfl, rfl, rfl, rfl, rfl, rfl, rfl⟩
  cases hagent : s.choice.agent with
  | host j =>
    rw [hagent] at hv
    obtain rfl | ⟨p, other, ⟨_, hsame, -, -, -⟩, hj, ⟨u, b, f, hmove, hu, -, -, -⟩⟩ := hostTurn_operates hagent hv
    · exact ⟨v, v, .refl v, hspend, .inl ⟨rfl, rfl⟩⟩
    · have hjk : s.caller ≠ k := by rw [caller_of_host hagent]; rintro rfl; exact hc hagent
      have hother := outside_of_inside_le_one hone (by simpa using ha.symm) hk (by simpa using hact) hj hjk
      exact ⟨p, u, hsame, hu.trans hspend, .inr ⟨_, _, by simpa using hother, hmove⟩⟩
  | refresh =>
    rw [hagent] at hv
    obtain ⟨-, hsw, hecho, -⟩ := refreshTurn_frame hv
    exact ⟨s, v.spend, .refl s, .refl _, .inl ⟨hsw, hecho⟩⟩
  | env e => rw [hagent] at hv; cases hv; exact ⟨s, _, .refl s, hspend, .inl (by rw [envTurn_update]; exact ⟨rfl, rfl⟩)⟩
  | call j c =>
    rw [hagent] at hv
    cases hv
    exact ⟨s, s, .refl s, (callArrives_sameEngines j c s).trans hspend, .inl ⟨rfl, rfl⟩⟩

/-- No other operation moves a sensor engine that measures. -/
theorem HostMove.sw_of_measuring (h : HostMove s b c u) (hb : b ≠ .swMeasure) (hs : s.SwInv) (hpc : s.sw.pc ≠ .idle) : u.sw = s.sw := by
  have hat := hs.exists_ hpc
  cases h with
  | swGoesOn | swEnds => exact absurd rfl hb
  | swStarts _ hidle => exact absurd hidle hpc
  | attachesSw hnot => rw [hat] at hnot; cases hnot
  | ecGoesOn | ecEnds => exact ecTurn_sw s
  | attachFails e hnot =>
    cases e with
    | sw => exact absurd (hs.idle_of_detached hnot) hpc
    | _ => rfl
  | detaches e hfree =>
    cases e with
    | sw => simp [State.busy, hpc] at hfree
    | _ => rfl
  | _ => rfl

theorem HostMove.echo_of_measuring (h : HostMove s b c u) (hb : b ≠ .echoMeasure) (hs : s.EchoInv) (hpc : s.echo.pc ≠ .idle) :
    u.echo = s.echo := by
  have hat := hs.exists_ hpc
  cases h with
  | ecGoesOn | ecEnds => exact absurd rfl hb
  | ecStarts _ hidle => exact absurd hidle hpc
  | attachesEcho hnot => rw [hat] at hnot; cases hnot
  | swGoesOn | swEnds => exact swTurn_echo s
  | attachFails e hnot =>
    cases e with
    | echo => exact absurd (hs.idle_of_detached hnot) hpc
    | _ => rfl
  | detaches e hfree =>
    cases e with
    | echo => simp [State.busy, hpc] at hfree
    | _ => rfl
  | _ => rfl

theorem State.threadInside.inside_pos (hin : s.threadInside k a) : 0 < s.inside (· == a) := by
  obtain ⟨th, hk, hact⟩ := hin
  exact List.countP_pos_iff.mpr ⟨th, List.mem_of_getElem? hk, by simpa using hact⟩

theorem State.threadInside.only (hin : s.threadInside k a) {p : Prop} [Decidable p]
    (hcount : s.inside (· == a) = if p then 0 else 1) : ¬ p ∧ s.inside (· == a) ≤ 1 := by
  have hpos := hin.inside_pos
  split at hcount
  · omega
  · next hp => exact ⟨hp, hcount.le⟩

/-- While a thread measures its engine is not idle, and it is the only one that measures. -/
theorem State.CallersInv.measuring_sw (hs : s.CallersInv) (hin : s.threadInside k .swMeasure) :
    s.sw.pc ≠ .idle ∧ s.inside (· == .swMeasure) ≤ 1 := hin.only hs.measuringSw

theorem State.CallersInv.measuring_echo (hs : s.CallersInv) (hin : s.threadInside k .echoMeasure) :
    s.echo.pc ≠ .idle ∧ s.inside (· == .echoMeasure) ≤ 1 := hin.only hs.measuringEcho

theorem step_sw_of_other (hs : s.Inv) (hin : s.threadInside k .swMeasure) (hc : s.choice.agent ≠ .host k) (h : step s = .next t) :
    t.sw = s.sw := by
  obtain ⟨hpc, hone⟩ := hs.callers.measuring_sw hin
  obtain ⟨p, u, hp, hu, ⟨hsw, -⟩ | ⟨b, c, hb, hmove⟩⟩ := step_foreign hin (by simp) hone hc h
  · exact hu.sw.trans (hsw.trans hp.sw)
  · exact hu.sw.trans ((hmove.sw_of_measuring hb (hs.sw.congr hp) (hp.sw ▸ hpc)).trans hp.sw)

theorem step_echo_of_other (hs : s.Inv) (hin : s.threadInside k .echoMeasure) (hc : s.choice.agent ≠ .host k) (h : step s = .next t) :
    t.echo = s.echo := by
  obtain ⟨hpc, hone⟩ := hs.callers.measuring_echo hin
  obtain ⟨p, u, hp, hu, ⟨-, hecho⟩ | ⟨b, c, hb, hmove⟩⟩ := step_foreign hin (by simp) hone hc h
  · exact hu.echo.trans (hecho.trans hp.echo)
  · exact hu.echo.trans ((hmove.echo_of_measuring hb (hs.echo.congr hp) (hp.echo ▸ hpc)).trans hp.echo)

/-! ## A task that has exited stays exited while a stop waits for it -/

theorem HostMove.running (h : HostMove s b c u) (hrun : s.disp.running = false) (hrun' : u.disp.running = true) :
    u.disp.stopReq = false := by
  have hsame : u.disp.running = s.disp.running → u.disp.stopReq = false := fun heq => by simp [heq, hrun] at hrun'
  cases h with
  | startsTask => rfl
  | attachesDisp => rfl
  | swGoesOn | swEnds => exact hsame (by rw [swTurn_disp])
  | ecGoesOn | ecEnds => exact hsame (by rw [ecTurn_disp])
  | attachFails e => exact hsame (by rw [s.goIdle_disp e])
  | detaches e => exact hsame (by cases e <;> rfl)
  | _ => exact hsame rfl

/-- A task that is started has no stop requested. -/
theorem EngineMove.running (h : EngineMove s t) (hrun : s.disp.running = false) (hrun' : t.disp.running = true) :
    t.disp.stopReq = false := by
  cases h with
  | none => simp [hrun] at hrun'
  | host h => exact h.running hrun hrun'
  | refresh h =>
    obtain ⟨-, -, hback⟩ := refreshTurn_task h
    simp [hback hrun'] at hrun
  | env e => rw [envTurn_update] at hrun'; simp [hrun] at hrun'

theorem stopInProgress_of_threadInside (hin : s.threadInside k .stopHold) : s.stopInProgress = true :=
  stopInProgress_iff.mpr hin.inside_pos

theorem step_not_running (ht : t.CallersInv) (hin : t.threadInside k .stopHold) (hrun : s.disp.running = false)
    (h : step s = .next t) : t.disp.running = false := by
  obtain ⟨v, hv, rfl⟩ := step_eq_next h
  obtain ⟨p, u, hp, hmove, hu⟩ := agentTurn_engineMove hv
  by_contra hne
  have hrun' : v.disp.running = true := Bool.eq_true_of_not_eq_false hne
  have hasked : v.disp.stopReq = true := ht.stopAsked (stopInProgress_of_threadInside hin) hrun'
  rw [hu.disp] at hrun' hasked
  rw [← hp.disp] at hrun
  simp [hmove.running hrun hrun'] at hasked

/-! ## What is left of an operation -/

/-- What an agent has left to do: stages, and in the stage it is in a time up to which its turns can be in vain and turns after it. -/
structure Remaining where
  stage : Nat
  deadline : Nat
  turns : Nat

/-- A turn at the time `now` that leaves `r'` of `r`: it ends a stage, or takes one of the turns left, unless the deadline is still to
come. -/
def Remaining.Falls (now : Nat) (r r' : Remaining) : Prop :=
  r'.stage < r.stage ∨ r'.stage = r.stage ∧ r'.deadline = r.deadline ∧ (now ≤ r.deadline ∨ r'.turns < r.turns)

/-- A delay in the stage `stage`: to be begun, or with its deadline (60_exceptions.md R231). -/
def delayRemaining (stage : Nat) : Option Nat → Remaining
  | none => ⟨2 * stage + 1, 0, 0⟩
  | some w => ⟨2 * stage, w, 0⟩

/-- A poll in the stage `stage`: once it has noted its start it goes back to the pin up to its bound and no longer (41_singlewire.md
R140). -/
def pollRemaining (stage T : Nat) (w : WaitLocals) : WaitSub → Remaining
  | .a => ⟨2 * stage + 1, 0, 0⟩
  | .b => ⟨2 * stage, 1000 * (w.t0 + T + 1), 1⟩
  | .c => ⟨2 * stage, 1000 * (w.t0 + T + 1), 0⟩

theorem PollGoesRound.falls {T : Nat} {w w' : WaitLocals} {sub sub' : WaitSub} (stage tau : Nat)
    (h : PollGoesRound T (tau / 1000) w w' sub sub') :
    (pollRemaining stage T w sub).Falls tau (pollRemaining stage T w' sub') := by
  cases sub <;> cases sub'
  case a.b => exact .inl (Nat.lt_succ_self _)
  case b.c =>
    have h : w'.t0 = w.t0 := h
    exact .inr ⟨rfl, by simp [pollRemaining, h], .inr Nat.one_pos⟩
  case c.b =>
    obtain ⟨h, hbound⟩ := h
    exact .inr ⟨rfl, by simp [pollRemaining, h], .inl (by simp only [pollRemaining]; omega)⟩
  all_goals exact absurd h id

/-- What is left of a single-wire measurement. -/
def swRemaining (c : Config) (x : Sw) : Remaining :=
  match x.pc with
  | .startDelay => delayRemaining (swStage x) x.wake
  | .wait st sub => pollRemaining (swStage x) (st.timeoutUs c) x.wait sub
  | _ => ⟨2 * swStage x, 0, 0⟩

/-- What is left of an echo measurement. -/
def ecRemaining (x : Echo) : Remaining :=
  match x.pc with
  | .trigDelay => delayRemaining (ecStage x) x.wake
  | .wait _ sub => pollRemaining (ecStage x) echoTimeoutUs x.wait sub
  | _ => ⟨2 * ecStage x, 0, 0⟩

theorem delayRemaining_stage (n : Nat) (wake : Option Nat) :
    2 * n ≤ (delayRemaining n wake).stage ∧ (delayRemaining n wake).stage ≤ 2 * n + 1 := by
  cases wake <;> simp [delayRemaining]

theorem pollRemaining_stage (n T : Nat) (w : WaitLocals) (sub : WaitSub) :
    2 * n ≤ (pollRemaining n T w sub).stage ∧ (pollRemaining n T w sub).stage ≤ 2 * n + 1 := by
  cases sub <;> simp [pollRemaining]

theorem swRemaining_stage (c : Config) (x : Sw) :
    2 * swStage x ≤ (swRemaining c x).stage ∧ (swRemaining c x).stage ≤ 2 * swStage x + 1 := by
  unfold swRemaining
  split
  · exact delayRemaining_stage _ _
  · exact pollRemaining_stage _ _ _ _
  · exact ⟨le_rfl, Nat.le_succ _⟩

theorem ecRemaining_stage (x : Echo) : 2 * ecStage x ≤ (ecRemaining x).stage ∧ (ecRemaining x).stage ≤ 2 * ecStage x + 1 := by
  unfold ecRemaining
  split
  · exact delayRemaining_stage _ _
  · exact pollRemaining_stage _ _ _ _
  · exact ⟨le_rfl, Nat.le_succ _⟩

theorem swTurn_falls (hs : s.SwInv) (hpc : s.sw.pc ≠ .idle) :
    (swRemaining s.cfg s.sw).Falls s.tau (swRemaining s.cfg (swTurn s).sw) := by
  obtain hstage | ⟨hat, hat', hdelay⟩ | ⟨st, sub, sub', hat, hat', hk, hpoll⟩ := swTurn_progress s hs.atStep hpc
  · have hbefore := swRemaining_stage s.cfg s.sw
    have hafter := swRemaining_stage s.cfg (swTurn s).sw
    exact .inl (by omega)
  · obtain ⟨hwake, hwake'⟩ | ⟨w, hwake, hlt, hsame⟩ := hdelay
    · refine .inl ?_
      simp [swRemaining, swStage, hat, hat', hwake, hwake', delayRemaining]
    · rw [hsame]
      exact .inr ⟨rfl, rfl, .inl (by simpa [swRemaining, hat, hwake, delayRemaining] using hlt.le)⟩
  · have hstage : swStage (swTurn s).sw = swStage s.sw := by cases st <;> simp [swStage, hat, hat', hk]
    simpa only [swRemaining, hat, hat', hstage] using hpoll.falls (swStage s.sw) s.tau

theorem ecTurn_falls (hpc : s.echo.pc ≠ .idle) : (ecRemaining s.echo).Falls s.tau (ecRemaining (ecTurn s).echo) := by
  obtain hstage | ⟨hat, hat', hdelay⟩ | ⟨st, sub, sub', hat, hat', hpoll⟩ := ecTurn_progress s hpc
  · have hbefore := ecRemaining_stage s.echo
    have hafter := ecRemaining_stage (ecTurn s).echo
    exact .inl (by omega)
  · obtain ⟨hwake, hwake'⟩ | ⟨w, hwake, hlt, hsame⟩ := hdelay
    · refine .inl ?_
      simp [ecRemaining, ecStage, hat, hat', hwake, hwake', delayRemaining]
    · rw [hsame]
      exact .inr ⟨rfl, rfl, .inl (by simpa [ecRemaining, hat, hwake, delayRemaining] using hlt.le)⟩
  · have hstage : ecStage (ecTurn s).echo = ecStage s.echo := by cases st <;> simp [ecStage, hat, hat']
    simpa only [ecRemaining, hat, hat', hstage] using hpoll.falls (ecStage s.echo) s.tau

/-- What is left of the refresh task whose stop is requested. -/
def refreshRemaining (d : Disp) : Remaining := ⟨refreshLeft d, d.wake.getD 0, 0⟩

theorem heldBy_iff {wake : Option Nat} : s.heldBy wake = true ↔ ∃ w, wake = some w ∧ s.tau < w := by
  cases wake <;> simp [State.heldBy]

theorem refreshRemaining_of_held (h : s.refreshHeld = true) : s.tau ≤ (refreshRemaining s.disp).deadline := by
  obtain ⟨w, hwake, hlt⟩ := heldBy_iff.mp h
  simpa [refreshRemaining, hwake] using hlt.le

theorem swRemaining_of_held (hs : s.SwInv) (h : s.heldBy s.sw.wake = true) : s.tau ≤ (swRemaining s.cfg s.sw).deadline := by
  obtain ⟨w, hwake, hlt⟩ := heldBy_iff.mp h
  have hpc := hs.delay (by simp [hwake])
  simpa [swRemaining, hpc, hwake, delayRemaining] using hlt.le

theorem ecRemaining_of_held (hs : s.EchoInv) (h : s.heldBy s.echo.wake = true) : s.tau ≤ (ecRemaining s.echo).deadline := by
  obtain ⟨w, hwake, hlt⟩ := heldBy_iff.mp h
  have hpc := hs.delay (by simp [hwake])
  simpa [ecRemaining, hpc, hwake, delayRemaining] using hlt.le

end Sys2Proof.Machine
end

section
/-! Fair runs in which time grows without bound (60_exceptions.md R242): whatever an agent has left to do comes to an end in them, and so
every operation in progress returns. -/

namespace Sys2Proof.Machine

variable {s t : State} {a : Activity} {k : Nat}

/-! ## The choice of a step -/

@[simp] theorem State.given_choice (s : State) (c : Choice) : (s.given c).choice = c := rfl
@[simp] theorem State.given_disp (s : State) (c : Choice) : (s.given c).disp = s.disp := rfl

theorem State.given_sameEngines (s : State) (c : Choice) : SameEngines s (s.given c) := ⟨rfl, rfl, rfl, rfl, rfl, rfl, rfl⟩

theorem State.Inv.given (hs : s.Inv) (c : Choice) : (s.given c).Inv where
  params := hs.params
  memory := hs.memory
  disp := hs.disp.congr (s.given_sameEngines c)
  sw := hs.sw.congr (s.given_sameEngines c)
  echo := hs.echo.congr (s.given_sameEngines c)
  pwm := hs.pwm.congr rfl rfl
  callers := callersInv_iff.mpr ((callersInv_iff.mp hs.callers).imp (fun h => h.congr rfl rfl rfl rfl) id)

theorem State.threadInside.runs_given (hin : s.threadInside k a) {c : Choice} (hc : c.agent = .host k) :
    (s.given c).caller = k ∧ (s.given c).runs a := by
  have hcaller : (s.given c).caller = k := caller_of_host hc
  exact ⟨hcaller, by rw [State.runs, hcaller]; exact ⟨hc, hin⟩⟩

/-! ## What comes to an end in a fair run -/

section
variable {run : Nat → State} {choices : Nat → Choice} (h : FairRun run choices)
include h

theorem FairRun.tau_mono : Monotone fun n => (run n).tau :=
  monotone_nat_of_le_succ fun n => step_tau_le (s := (run n).given (choices n)) (h.moves n)

/-- From any step on time passes any bound for good. -/
theorem FairRun.tau_passes (bound n : Nat) : ∃ N, n ≤ N ∧ ∀ m, N ≤ m → bound < (run m).tau := by
  obtain ⟨N, hN⟩ := h.timeGrows bound
  exact ⟨max n N, le_max_left n N, fun m hm => hN.trans_le (h.tau_mono ((le_max_right n N).trans hm))⟩

/-- An agent that has a step from the step `n` on takes one. -/
theorem FairRun.takes_step {e : Agent} {n : Nat} (hstep : ∀ m, n ≤ m → (run m).hasStep e = true) :
    ∃ m, n ≤ m ∧ (choices m).agent = e := by
  obtain ⟨m, hm, hagent | hno⟩ := h.fair e n
  · exact ⟨m, hm, hagent⟩
  · simp [hstep m hm] at hno

/-- An agent that has a step from the step `N` on cannot always have a turn less left. -/
theorem FairRun.not_always_fewer {e : Agent} {N : Nat} {turns : Nat → Nat} (hstep : ∀ n, N ≤ n → (run n).hasStep e = true)
    (hturn : ∀ n, N ≤ n → (choices n).agent = e → turns (n + 1) < turns n)
    (hother : ∀ n, N ≤ n → (choices n).agent ≠ e → turns (n + 1) = turns n) : False := by
  have hantitone : AntitoneOn turns (Set.Ici N) := antitoneOn_nat_Ici_of_succ_le fun n hn => by
    by_cases hc : (choices n).agent = e
    · exact (hturn n hn hc).le
    · exact (hother n hn hc).le
  obtain ⟨last, hlast, hleast⟩ : ∃ last, N ≤ last ∧ ∀ n, N ≤ n → turns last ≤ turns n :=
    ⟨_, Function.argminOn_mem turns (Set.Ici N) Set.nonempty_Ici, fun _ hn => Function.argminOn_le turns _ hn⟩
  obtain ⟨m, hm, hc⟩ := h.takes_step fun m hm => hstep m (hlast.trans hm)
  have hfewer := hturn m (hlast.trans hm) hc
  have hsofar := hantitone hlast (hlast.trans hm) hm
  have hmin := hleast (m + 1) (by omega)
  omega

/-- No agent has for ever something left that only its own turns change, that each of them makes less, and that holds the agent back
until the deadline at most. -/
theorem FairRun.not_forever_remaining {e : Agent} {left : Nat → Remaining}
    (hturn : ∀ n, (choices n).agent = e → (left n).Falls (run n).tau (left (n + 1)))
    (hother : ∀ n, (choices n).agent ≠ e → left (n + 1) = left n)
    (hheld : ∀ n, (run n).hasStep e = false → (run n).tau ≤ (left n).deadline) : False := by
  obtain ⟨first, hleast⟩ : ∃ first, ∀ n, (left first).stage ≤ (left n).stage :=
    ⟨_, fun n => Function.argmin_le (fun n => (left n).stage) n⟩
  have hstays : ∀ n, first ≤ n → (left n).stage = (left first).stage ∧ (left n).deadline = (left first).deadline := by
    intro n hn
    induction n, hn using Nat.le_induction with
    | base => exact ⟨rfl, rfl⟩
    | succ n _ ih =>
      by_cases hc : (choices n).agent = e
      · have hmin := hleast (n + 1)
        obtain hlt | ⟨hstage, hdeadline, -⟩ := hturn n hc
        · omega
        · exact ⟨hstage.trans ih.1, hdeadline.trans ih.2⟩
      · rwa [hother n hc]
  obtain ⟨N, hN, hlate⟩ := h.tau_passes (left first).deadline first
  have hpast : ∀ n, N ≤ n → (left n).deadline < (run n).tau := fun n hn => (hstays n (hN.trans hn)).2 ▸ hlate n hn
  refine h.not_always_fewer (N := N) (turns := fun n => (left n).turns) (fun n hn => ?_) (fun n hn hc => ?_)
    fun n _ hc => congrArg Remaining.turns (hother n hc)
  · by_contra hno
    exact (hpast n hn).not_ge (hheld n (Bool.eq_false_of_not_eq_true hno))
  · obtain hlt | ⟨-, -, hearly | hlt⟩ := hturn n hc
    · have hmin := hleast (n + 1)
      have hstage := (hstays n (hN.trans hn)).1
      omega
    · exact absurd hearly (hpast n hn).not_ge
    · exact hlt

/-! ## The operations -/

theorem FairRun.inv (h0 : (run 0).Inv) (n : Nat) : (run n).Inv := by
  induction n with
  | zero => exact h0
  | succ n ih => exact stepKeepsInv _ _ (ih.given _) (h.moves n)

/-- A thread that never returns stays inside of its operation. -/
theorem FairRun.stays_inside (ha : a ≠ .idle) (hin : (run 0).threadInside k a) (hnot : ∀ n, ¬ (run n).threadReturned k) (n : Nat) :
    (run n).threadInside k a := by
  induction n with
  | zero => exact hin
  | succ n ih => exact (State.threadInside.step (s := (run n).given (choices n)) ih ha (h.moves n)).resolve_right (hnot (n + 1))

/-- A task whose stop is requested exits (40_display.md R132). -/
theorem FairRun.task_exits (h0 : (run 0).Inv) (hin : ∀ n, (run n).threadInside k .stopHold) : ∃ n, (run n).disp.running = false := by
  by_contra hnot
  have hrun : ∀ n, (run n).disp.running = true := fun n => Bool.eq_true_of_not_eq_false fun hr => hnot ⟨n, hr⟩
  have hnear : ∀ n, _ := fun n => stopComesNearer ((run n).given (choices n)) (run (n + 1)) ((h.inv h0 n).given _).disp (hrun n)
    ((h.inv h0 n).callers.stopAsked (stopInProgress_of_threadInside (hin n)) (hrun n)) (h.moves n)
  have hmoves : ∀ n, ((run n).given (choices n)).refreshMoves = ((choices n).agent == .refresh && !(run n).refreshHeld) := fun n => by
    simp only [State.refreshMoves, State.given_choice, State.given_disp, hrun n, Bool.and_true]
    rfl
  refine h.not_forever_remaining (e := .refresh) (left := fun n => refreshRemaining (run n).disp) (fun n hc => ?_) (fun n hc => ?_)
    fun n hno => refreshRemaining_of_held (by simpa [State.hasStep, hrun n] using hno)
  · obtain ⟨hleft, hsame, -⟩ := hnear n
    cases hheld : (run n).refreshHeld with
    | false => exact .inl (Nat.lt_of_succ_le (hleft (by simp [hmoves, hc, hheld])).le)
    | true =>
      have hdisp : (run (n + 1)).disp = (run n).disp := hsame (by simp [hmoves, hheld])
      exact .inr ⟨by rw [hdisp], by rw [hdisp], .inl (refreshRemaining_of_held hheld)⟩
  · obtain ⟨-, hsame, -⟩ := hnear n
    have hdisp : (run (n + 1)).disp = (run n).disp := hsame (by simp [hmoves, hc])
    rw [hdisp]

theorem FairRun.setDigits_returns {u : Byte} (hin : ∀ n, (run n).threadInside k (.setDigits u)) : ∃ n, (run n).threadReturned k := by
  have hstep : ∀ n, 0 ≤ n → (run n).hasStep (.host k) = true := fun n _ => by
    obtain ⟨th, hk, hact⟩ := hin n
    simp [State.hasStep, hk, hact]
  obtain ⟨m, -, hc⟩ := h.takes_step hstep
  obtain ⟨hcaller, hruns⟩ := (hin m).runs_given hc
  exact ⟨m + 1, hcaller ▸ step_setDigits_returns hruns (h.moves m)⟩

/-- `stop()` always terminates (40_display.md R132). -/
theorem FairRun.stopHold_returns (h0 : (run 0).Inv) (hin : ∀ n, (run n).threadInside k .stopHold) : ∃ n, (run n).threadReturned k := by
  obtain ⟨N, hN⟩ := h.task_exits h0 hin
  have hexited : ∀ n, N ≤ n → (run n).disp.running = false := by
    intro n hn
    induction n, hn using Nat.le_induction with
    | base => exact hN
    | succ n _ ih => exact step_not_running (s := (run n).given (choices n)) (h.inv h0 (n + 1)).callers (hin (n + 1)) ih (h.moves n)
  have hstep : ∀ n, N ≤ n → (run n).hasStep (.host k) = true := fun n hn => by
    obtain ⟨th, hk, hact⟩ := hin n
    simp [State.hasStep, hk, hact, hexited n hn]
  obtain ⟨m, hm, hc⟩ := h.takes_step hstep
  obtain ⟨hcaller, hruns⟩ := (hin m).runs_given hc
  exact ⟨m + 1, hcaller ▸ step_stopHold_returns hruns (hexited m hm) (h.moves m)⟩

/-- No measurement goes on for ever: its turns fall, and no other step touches its engine. -/
theorem FairRun.not_forever_swMeasure (h0 : (run 0).Inv) (hin : ∀ n, (run n).threadInside k .swMeasure) : False := by
  have hcfg : ∀ n, (run (n + 1)).cfg = (run n).cfg := fun n => step_cfg (s := (run n).given (choices n)) (h.moves n)
  refine h.not_forever_remaining (e := .host k) (left := fun n => swRemaining (run n).cfg (run n).sw) (fun n hc => ?_) (fun n hc => ?_)
    fun n hno => ?_
  · have hs := (h.inv h0 n).given (choices n)
    obtain ⟨-, hruns⟩ := (hin n).runs_given hc
    have hnext := Host.Outcome.next.inj ((step_of_runs_swMeasure hruns).symm.trans (h.moves n))
    have hfalls := swTurn_falls hs.sw (hs.callers.measuring_sw (hin n)).1
    rwa [← hnext, State.spend_cfg, State.spend_sw, swTurn_cfg]
  · have hsw : (run (n + 1)).sw = (run n).sw :=
      step_sw_of_other (s := (run n).given (choices n)) ((h.inv h0 n).given _) (hin n) hc (h.moves n)
    rw [hcfg, hsw]
  · obtain ⟨th, hk, hact⟩ := hin n
    exact swRemaining_of_held (h.inv h0 n).sw (by simpa [State.hasStep, hk, hact] using hno)

theorem FairRun.not_forever_echoMeasure (h0 : (run 0).Inv) (hin : ∀ n, (run n).threadInside k .echoMeasure) : False := by
  refine h.not_forever_remaining (e := .host k) (left := fun n => ecRemaining (run n).echo) (fun n hc => ?_) (fun n hc => ?_) fun n hno => ?_
  · have hs := (h.inv h0 n).given (choices n)
    obtain ⟨-, hruns⟩ := (hin n).runs_given hc
    have hnext := Host.Outcome.next.inj ((step_of_runs_echoMeasure hruns).symm.trans (h.moves n))
    have hfalls := ecTurn_falls (hs.callers.measuring_echo (hin n)).1
    rwa [← hnext, State.spend_echo]
  · have hecho : (run (n + 1)).echo = (run n).echo :=
      step_echo_of_other (s := (run n).given (choices n)) ((h.inv h0 n).given _) (hin n) hc (h.moves n)
    rw [hecho]
  · obtain ⟨th, hk, hact⟩ := hin n
    exact ecRemaining_of_held (h.inv h0 n).echo (by simpa [State.hasStep, hk, hact] using hno)

/-- Every operation in progress returns. -/
theorem FairRun.returns (h0 : (run 0).Inv) (ha : a ≠ .idle) (hin : (run 0).threadInside k a) : ∃ n, (run n).threadReturned k := by
  by_contra hnot
  have hinside := h.stays_inside ha hin (not_exists.mp hnot)
  cases a with
  | idle => exact ha rfl
  | setDigits u => exact hnot (h.setDigits_returns hinside)
  | stopHold => exact hnot (h.stopHold_returns h0 hinside)
  | swMeasure => exact h.not_forever_swMeasure h0 hinside
  | echoMeasure => exact h.not_forever_echoMeasure h0 hinside

end

/-- Settles O60: a thread that never returned would stay inside of its operation, and each operation comes to an end. -/
theorem operationsEnd : Obligations.OperationsEnd :=
  fun _ _ h h0 _ th hk ha => h.returns h0 ha ⟨th, hk, rfl⟩

end Sys2Proof.Machine
end

section
/-! Attach, which is the reset of an engine, and detach; what either refuses, and what an engine without an instance refuses
(10_state.md R52; 43_pwm.md R192; 70_reset_and_hazards.md R250 to R256). -/

namespace Sys2Proof.Machine

variable {s : State} {e : Engine}

/-! ## Attach with its pins acquired (R250 to R254) -/

section
variable (hacq : s.choice.acquire = true)
include hacq

theorem attach_disp_acquired (hat : s.disp.attached = false) :
    attach .disp s = .next ((attachDisp s).giveBack (.status .ok)) := by
  simp [attach, State.attached, hat, hacq]

theorem attach_sw_acquired (hat : s.sw.attached = false) : attach .sw s = .next ((attachSw s).giveBack (.status .ok)) := by
  simp [attach, State.attached, hat, hacq]

theorem attach_echo_acquired (hat : s.echo.attached = false) : attach .echo s = .next ((attachEcho s).giveBack (.status .ok)) := by
  simp [attach, State.attached, hat, hacq]

theorem attach_pwm_acquired (hat : s.pwm.attached = false) : attach .pwm s = .next (attachPwm s) := by
  simp [attach, State.attached, hat, hacq]

end

theorem attachPwm_accepted (hc : s.choice.accept = true) :
    attachPwm s = { s with
      pwm := ⟨true, pwmDefaultPercent, pwmStateOf pwmDefaultPercent⟩, commits := s.commits + 1 }.giveBack (.status .ok) := by
  simp [attachPwm, State.commit, hc]

theorem attachPwm_rejected (hc : s.choice.accept = false) :
    attachPwm s = { s with commits := s.commits + 1 }.giveBack (.status .applyError) := by
  simp [attachPwm, State.commit, hc, State.raise, State.goIdle]

/-- Both bytes of a canonical memory read 0 after attach of the display, the second write leaving the first byte as it was. -/
theorem attachDisp_digits (hwf : Memory.wf s.mem = true) : (attachDisp s).digitTens = 0 ∧ (attachDisp s).digitUnits = 0 := by
  obtain ⟨htens, -⟩ := read_write_of_wf hwf 0 0
  obtain ⟨hunits, hother⟩ := read_write_of_wf (Memory.wf_write s.mem 0 0 Nat.zero_lt_two hwf) 1 0
  exact ⟨(hother 0 Nat.zero_ne_one).trans htens, hunits⟩

/-- Settles O48, engine by engine. -/
theorem attachResets : Obligations.AttachResets := by
  refine fun s hwf hacq => ⟨fun hat => ?_, fun hat => ?_, fun hat => ?_, fun hat hc => ?_⟩
  · obtain ⟨htens, hunits⟩ := attachDisp_digits hwf
    have hselect := PinHandle.drives_driving (!s.cfg.selOnLevel)
    exact ⟨_, attach_disp_acquired hacq hat, callerReturns_giveBack rfl, rfl, rfl, rfl, rfl, htens, hunits, ⟨rfl, rfl⟩,
      rfl, rfl, rfl, hselect, hselect, rfl, rfl, rfl, rfl, rfl, rfl⟩
  · exact ⟨_, attach_sw_acquired hacq hat, callerReturns_giveBack rfl, rfl, rfl, rfl, rfl, rfl, rfl, rfl⟩
  · exact ⟨_, attach_echo_acquired hacq hat, callerReturns_giveBack rfl, rfl, rfl, rfl, rfl, rfl, rfl, rfl, rfl, rfl⟩
  · have hattach := attach_pwm_acquired hacq hat
    rw [attachPwm_accepted hc] at hattach
    exact ⟨_, hattach, callerReturns_giveBack rfl, rfl, rfl⟩

/-! ## Attach that fails (R254, R255) -/

/-- An engine without an instance is idle already, so that `raise` finds its phase register at the idle value. -/
theorem goIdle_of_detached (hsw : s.SwInv) (hecho : s.EchoInv) (hat : s.attached e = false) : s.goIdle e = s := by
  cases e with
  | disp | pwm => rfl
  | sw => rw [State.goIdle, ← hsw.idle_of_detached hat]
  | echo => rw [State.goIdle, ← hecho.idle_of_detached hat]

theorem attach_not_acquired (hsw : s.SwInv) (hecho : s.EchoInv) (hat : s.attached e = false) (hacq : s.choice.acquire = false) :
    attach e s = .next (s.giveBack (.status .acquireError)) := by
  simp [attach, State.raise, goIdle_of_detached hsw hecho hat, hat, hacq]

/-- Settles O49: in both cases all that is left is the answer, and for a rejected commit its count. -/
theorem attachFailures : Obligations.AttachFailures := by
  refine fun s e hsw hecho hat => ⟨fun hacq => ?_, ?_⟩
  · exact ⟨_, attach_not_acquired hsw hecho hat hacq, hat, callerReturns_giveBack rfl, rfl⟩
  · rintro rfl hacq hc
    have hattach := attach_pwm_acquired hacq hat
    rw [attachPwm_rejected hc] at hattach
    exact ⟨_, hattach, hat, callerReturns_giveBack rfl, rfl⟩

/-! ## Operations on an engine without an instance (R256) -/

/-- Settles O42: each operation asks first whether its engine has an instance. -/
theorem detachedRefused : Obligations.DetachedRefused := by
  refine fun s => ⟨fun hat t u => ⟨?_, ?_, ?_⟩, fun hat => ?_, fun hat => ?_, fun hat p => ?_⟩
  · simp [exec, execDispSetDigits, hat]
  · simp [exec, execDispStart, hat]
  · simp [exec, execDispStop, hat]
  · simp [exec, execSwMeasure, hat]
  · simp [exec, execEchoMeasure, hat]
  · simp [exec, execPwmSetDuty, hat]

/-! ## Detach (R256) -/

theorem detach_idle (hat : s.attached e = true) (hbusy : s.busy e = false) :
    detach e s = .next ((s.dropInstance e).giveBack .void) := by
  simp [detach, hat, hbusy]

theorem detach_busy (hat : s.attached e = true) (hbusy : s.busy e = true) : detach e s = .refused (.detachBusy e) := by
  simp [detach, hat, hbusy]

theorem State.attached_dropInstance (s : State) (e e' : Engine) :
    (s.dropInstance e).attached e' = if e' = e then false else s.attached e' := by
  cases e <;> cases e' <;> rfl

/-- Ending an instance changes its own register `attached` and no pin, memory byte or thread. -/
theorem State.dropInstance_frame (s : State) (e : Engine) : (s.dropInstance e).pins = s.pins ∧ (s.dropInstance e).mem = s.mem ∧
    ∀ r, ((s.dropInstance e).giveBack r).threads = (s.giveBack r).threads := by
  cases e <;> exact ⟨rfl, rfl, fun _ => rfl⟩

theorem State.busy_disp_iff (s : State) :
    s.busy .disp = true ↔ s.disp.running = true ∨ s.stopInProgress = true ∨ s.setInProgress = true := by
  simp only [State.busy, Bool.or_eq_true, or_assoc]

/-- Settles O50. -/
theorem detachWhenIdle : Obligations.DetachWhenIdle := by
  refine fun s e hat => ⟨fun hbusy => ?_, detach_busy hat, s.busy_disp_iff, bne_iff_ne, bne_iff_ne, rfl⟩
  obtain ⟨hpins, hmem, hthreads⟩ := s.dropInstance_frame e
  have hattached := s.attached_dropInstance e
  exact ⟨_, detach_idle hat hbusy, (hattached e).trans (if_pos rfl), fun e' hne => (hattached e').trans (if_neg hne), hpins, hmem,
    callerReturns_giveBack (hthreads .void)⟩

end Sys2Proof.Machine
end
